-- ==== Sys2Proof/Word.lean ====
section
/-! DEFINITION. The byte and word types, what a Host puts on the bus, and the outcome of reading a command word. -/

namespace Sys2Proof

/-- A memory cell's contents (00_scope.md R6). -/
abbrev Byte := BitVec 8

/-- A register's contents (00_scope.md R6, REG_W = 32). -/
abbrev Word := BitVec 32

/-- One Host access at a host address (30_encoding.md R70): a read of `width` bytes, or a write of the listed
bytes, lowest address first. -/
inductive Bus where
  | rd (addr width : Nat)
  | wr (addr : Nat) (data : List Byte)
  deriving DecidableEq, Repr

/-- What `decode_cmd` answers for a command word (30_encoding.md R69). -/
inductive Command where
  | encode
  | decode
  | illegal
  deriving DecidableEq, Repr

end Sys2Proof
end

