-- ==== Sys2Proof/Config.lean ====
section
/-! DEFINITION. The fixed numbers of the hardware, the shapes of its open parameters, and its free values. -/

namespace Sys2Proof.Config

/-- The memory has 2^32 byte cells (20_memory.md R45). -/
def memSize : Nat := 2 ^ 32

/-- The register window is 0x20 bytes (10_state.md R21). -/
def windowBytes : Nat := 0x20

/-- The address value that means "absent buffer" (00_scope.md R6, D7). -/
def nullAddr : Word := 0

/-- The end-of-frame marker (00_scope.md R6). -/
def delimiter : Byte := 0

/-- The code of a full block (00_scope.md R6). -/
def fullCode : Byte := 255

/-- The literal bytes of a full block (00_scope.md R6). -/
def fullRun : Nat := 254

/-- RESULT_LEN read while BUSY is "any 32-bit value", "a 32-bit draw per read" (40_command.md R81, D14;
93_implementation_defined.md item 6). Log 5: a free value, nothing constrains it. -/
opaque resultLenDraw : Nat → Word

/-- An internal 32-bit register after a reset event: "unspecified" (10_state.md R34). The arguments are the draw
and which register. Log 3: a free value. -/
opaque resetWord : Nat → Nat → Word

/-- An internal 8-bit register after a reset event (10_state.md R34). Log 3: a free value. -/
opaque resetByte : Nat → Nat → Byte

/-- The internal register `zpend` after a reset event (10_state.md R34). Log 3: a free value. -/
opaque resetBit : Nat → Bool

end Sys2Proof.Config

namespace Sys2Proof

/-- The kind of a memory request (20_memory.md R52). -/
inductive AccessKind where
  | read
  | write
  deriving DecidableEq, Repr

/-- Memory requests the platform does not admit: accesses of one kind to the cells [lo, hi). -/
structure Denied where
  kind : AccessKind
  lo : Nat
  hi : Nat
  deriving DecidableEq, Repr

/-- The open parameters of one instance (00_scope.md R6): COBS_BASE, and MEM_ADMIT for its Engine as the list of
requests it does not admit. Log 1. -/
structure Port where
  base : Nat
  denied : List Denied
  deriving DecidableEq, Repr

/-- The open parameters of the platform: whether the Host's memory accesses and register accesses share one address
map (20_memory.md R45), and MEM_ADMIT for the Host. Log 1. -/
structure Platform where
  sharedMap : Bool
  hostDenied : List Denied
  deriving DecidableEq, Repr

end Sys2Proof
end

