-- ==== Sys2Proof/Syntax.lean ====
section
/-! DEFINITION. The instructions: one constructor per row of the opcode table. -/

namespace Sys2Proof

/-- The Host's actions on the block (30_encoding.md R66, R72). A write carries its 32-bit data word. `encode` and
`decode` are the WR CMD transactions whose data word is 0x00000001 and 0x00000002. -/
inductive Instr where
  | encode
  | decode
  | wrCmd (w : Word)
  | rdStatus
  | wrSrcAddr (x : Word)
  | rdSrcAddr
  | wrSrcLen (x : Word)
  | rdSrcLen
  | wrDstAddr (x : Word)
  | rdDstAddr
  | rdResultLen
  deriving DecidableEq, Repr

end Sys2Proof
end

