-- ==== Sys2Proof/WellFormed.lean ====
section
/-! DEFINITION. Which instructions are the one reading of some transaction. -/

namespace Sys2Proof

/-- A WR CMD transaction is "decoded further by its data word" (30_encoding.md R72): the words 1 and 2 are read as
`encode` and `decode`, so `wrCmd` stands for every other word. Every other instruction is well formed with every
operand. (Log 18. `exec` gives `wrCmd` its effect on all 2^32 words all the same.) -/
def Instr.wellFormed : Instr → Bool
  | .wrCmd w => w != 1 && w != 2
  | .encode => true
  | .decode => true
  | .rdStatus => true
  | .wrSrcAddr _ => true
  | .rdSrcAddr => true
  | .wrSrcLen _ => true
  | .rdSrcLen => true
  | .wrDstAddr _ => true
  | .rdDstAddr => true
  | .rdResultLen => true

end Sys2Proof
end

