-- ==== Sys2Proof/Decode.lean ====
section
/-! DEFINITION. From a bus transaction to an instruction or a named rejection, and back. -/

namespace Sys2Proof

/-- Byte lane k of a register word is bits 8k+7 down to 8k, at the k-th address (20_memory.md R48). -/
def leBytes (x : Word) : List Byte :=
  [x.extractLsb' 0 8, x.extractLsb' 8 8, x.extractLsb' 16 8, x.extractLsb' 24 8]

/-- The word of four byte lanes (20_memory.md R48). -/
def leWord (b0 b1 b2 b3 : Byte) : Word := b3 ++ b2 ++ b1 ++ b0

/-- `decode_cmd` (30_encoding.md R69): total, exact on all 32 bits. -/
def decodeCmd (w : Word) : Command :=
  if w = 0x00000001#32 then .encode else if w = 0x00000002#32 then .decode else .illegal

/-- A WR CMD transaction decoded by its data word (30_encoding.md R72, R69). -/
def instrOfCmdWord (w : Word) : Instr :=
  match decodeCmd w with
  | .encode => .encode
  | .decode => .decode
  | .illegal => .wrCmd w

/-- Why an access is no legal transaction (30_encoding.md R72, 40_command.md R84). The model records HostProtocol for
each of them. -/
inductive DecodeError where
  /-- A read of CMD. -/
  | readOfCmd
  /-- A write to STATUS. -/
  | writeOfStatus
  /-- A write to RESULT_LEN. -/
  | writeOfResultLen
  /-- An access at offset 0x18 or 0x1C. -/
  | reservedOffset
  /-- An access that is not 32 bits wide. -/
  | notWord
  /-- An access that is not aligned to 4 bytes. -/
  | misaligned
  /-- An access that starts outside the window (10_state.md R28: not an access to offsets 0x00 to 0x14). -/
  | outsideWindow
  deriving DecidableEq, Repr

/-- The address of an access. -/
def Bus.addr : Bus → Nat
  | .rd a _ => a
  | .wr a _ => a

/-- The bytes an access covers. -/
def Bus.width : Bus → Nat
  | .rd _ n => n
  | .wr _ d => d.length

/-- Is the access a write? -/
def Bus.isWrite : Bus → Bool
  | .rd _ _ => false
  | .wr _ _ => true

/-- The data word of a 32-bit write; a read carries none, and 0 stands there unread. -/
def Bus.data : Bus → Word
  | .wr _ [b0, b1, b2, b3] => leWord b0 b1 b2 b3
  | _ => 0

/-- The transaction key K = (dir << 5) | offset of an access to the window at `base` (30_encoding.md R72), or why it
has none. -/
def keyOf (base : Nat) (x : Bus) : Except DecodeError (BitVec 6) :=
  if x.width ≠ 4 then .error .notWord
  else if x.addr < base ∨ base + Config.windowBytes ≤ x.addr then .error .outsideWindow
  else if (x.addr - base) % 4 ≠ 0 then .error .misaligned
  else .ok (BitVec.ofNat 6 ((if x.isWrite then 32 else 0) + (x.addr - base)))

/-- The legal keys (30_encoding.md R72, the table), each other key rejected by name. -/
def decodeKey (k : BitVec 6) (data : Word) : Except DecodeError Instr :=
  if k = 0x20#6 then .ok (instrOfCmdWord data)
  else if k = 0x04#6 then .ok .rdStatus
  else if k = 0x28#6 then .ok (.wrSrcAddr data)
  else if k = 0x08#6 then .ok .rdSrcAddr
  else if k = 0x2C#6 then .ok (.wrSrcLen data)
  else if k = 0x0C#6 then .ok .rdSrcLen
  else if k = 0x30#6 then .ok (.wrDstAddr data)
  else if k = 0x10#6 then .ok .rdDstAddr
  else if k = 0x14#6 then .ok .rdResultLen
  else if k = 0x00#6 then .error .readOfCmd
  else if k = 0x24#6 then .error .writeOfStatus
  else if k = 0x34#6 then .error .writeOfResultLen
  else if k = 0x18#6 ∨ k = 0x1C#6 ∨ k = 0x38#6 ∨ k = 0x3C#6 then .error .reservedOffset
  else .error .misaligned

/-- The instruction of an access to the window at `base`; total, rejecting by name. -/
def decode (base : Nat) (x : Bus) : Except DecodeError Instr :=
  match keyOf base x with
  | .ok k => decodeKey k x.data
  | .error e => .error e

/-- The bus transaction of an instruction (30_encoding.md R70, R72; offsets of 10_state.md R21). -/
def encode (base : Nat) : Instr → Bus
  | .encode => .wr (base + 0x00) (leBytes 0x00000001#32)
  | .decode => .wr (base + 0x00) (leBytes 0x00000002#32)
  | .wrCmd w => .wr (base + 0x00) (leBytes w)
  | .rdStatus => .rd (base + 0x04) 4
  | .wrSrcAddr x => .wr (base + 0x08) (leBytes x)
  | .rdSrcAddr => .rd (base + 0x08) 4
  | .wrSrcLen x => .wr (base + 0x0C) (leBytes x)
  | .rdSrcLen => .rd (base + 0x0C) 4
  | .wrDstAddr x => .wr (base + 0x10) (leBytes x)
  | .rdDstAddr => .rd (base + 0x10) 4
  | .rdResultLen => .rd (base + 0x14) 4

/-- The transaction that a word of the opcode table stands for (log 17). The table has two formats: CMD32 (32 bits)
is the data word of a WR CMD transaction; REGACC6 (6 bits, one whole byte) is a transaction key, and a write's data
word, which the table gives no bits, is 0. -/
def accessOfTableWord (base nbits w : Nat) : Option Bus :=
  if nbits = 32 then
    if w < 2 ^ 32 then some (.wr base (leBytes (BitVec.ofNat 32 w))) else none
  else if nbits = 8 then
    if w < 32 then some (.rd (base + w) 4)
    else if w < 64 then some (.wr (base + (w - 32)) (leBytes 0))
    else none
  else none

/-- The instruction the decoder reads from a word of the opcode table. -/
def decodeTableWord (nbits w : Nat) : Option Instr :=
  match accessOfTableWord 0 nbits w with
  | none => none
  | some x =>
    match decode 0 x with
    | .ok i => some i
    | .error _ => none

end Sys2Proof
end

