-- ==== Sys2Proof/Machine/State.lean ====
section
/-! DEFINITION. The state of the block instances, their memory and their Host, as plain data; its value at reset; the
ways a step can stop. -/

namespace Sys2Proof.Machine

/-- The states of the Engine (10_state.md R30). -/
inductive Fsm where
  | idle
  | encRead
  | encLit
  | encFinZero
  | encFinFull
  | encFinal
  | encDelim
  | decCode
  | decZero
  | decRead
  | decWrite
  | complete
  deriving DecidableEq, Repr

/-- The error codes (60_exceptions.md R136). Codes 5 to 15 are never raised and have no name. -/
inductive ErrCode where
  | none
  | illegalCmd
  | nullBuffer
  | addrRange
  | overlap
  deriving DecidableEq, Repr

/-- The buffers of an accepted operation, as long as the Host's duty on them lasts (20_memory.md R46, R63).
The model's own bookkeeping (log 10): the command and the operands it was accepted with. -/
structure Duty where
  cmd : Command
  s : Word
  l : Word
  d : Word
  deriving DecidableEq, Repr

/-- One block instance (10_state.md R20): STATUS.DONE, ERR and ERRCODE (R23; BUSY is `fsm ≠ idle`, R30), the other
host-visible registers (R21), the Engine's registers (R29), the instance's open parameters (00_scope.md R6; no step
changes them) and the model's record of open buffer duties. CMD has no storage (R22). -/
structure Block where
  done : Bool
  err : Bool
  errcode : BitVec 4
  srcAddr : Word
  srcLen : Word
  dstAddr : Word
  resultLen : Word
  fsm : Fsm
  S : Word
  L : Word
  D : Word
  i : Word
  cur : Word
  codep : Word
  code : Byte
  byte : Byte
  block : Byte
  zpend : Bool
  v : Byte
  port : Port
  duties : List Duty
  deriving DecidableEq, Repr

/-- The faults the model records (60_exceptions.md R147). -/
inductive ModelFault where
  | hostProtocol
  | hostRace
  deriving DecidableEq, Repr

/-- The flags a model fault is recorded in (60_exceptions.md R147): never cleared, reset included. -/
structure FaultFlags where
  hostProtocol : Bool
  hostRace : Bool
  deriving DecidableEq, Repr

/-- A value the Host has read: a register's word (30_encoding.md R70, `RD <reg> -> <name>`), or bytes of memory. -/
inductive HostRead where
  | reg (v : Word)
  | mem (bytes : List Byte)
  deriving DecidableEq, Repr

/-- One line of a Host program (30_encoding.md R70): a register access, a memory access, or `POLL` on an instance
(0 is `State.blk`, k + 1 is the k-th of `State.peers`). -/
inductive HostAction where
  | reg (x : Bus)
  | mem (x : Bus)
  | poll (k : Nat)
  deriving DecidableEq, Repr

/-- Whose step it is (40_command.md R75, 70_reset_and_hazards.md R155): the Host's next action, the Engine of an
instance, or the reset input of an instance. -/
inductive Turn where
  | host
  | engine (k : Nat)
  | reset (k : Nat)
  deriving DecidableEq, Repr

/-- Memory: the listed cells, addresses rising, none equal to what an unlisted cell reads as. -/
abbrev Memory := List Host.Cell

/-- The whole machine: the instance an access acts on (`blk`), the other instances (`peers`, 60_exceptions.md R151),
the shared memory (20_memory.md R45), the model-fault flags (60_exceptions.md R147), the Host's remaining program and
the values it has read, whose turn it is, the counter of free values, and the platform's open parameters. -/
structure State where
  blk : Block
  peers : List Block
  mem : Memory
  faults : FaultFlags
  hostQueue : List HostAction
  reads : List HostRead
  sched : List Turn
  draws : Nat
  platform : Platform
  deriving DecidableEq, Repr

/-- Why the model stops. No instruction of the opcode table raises one of these; all are safe. -/
inductive Fault where
  /-- Raised by a Host memory access that leaves the 2^32 cells (20_memory.md R45). Safe: the machine stops (log 14). -/
  | hostAddress
  /-- Raised by a Host register access or `POLL` that reaches no instance's window. Safe: it is no access to this
  hardware (log 15). -/
  | noWindow
  /-- Raised by MemRead or MemWrite when its `require` fails (20_memory.md R52), which the acceptance check rules out.
  Safe: no state that meets `State.inv` raises it (log 19). -/
  | requireRange
  /-- Raised by an Engine step whose result is no value of its register (00_scope.md R8), or that starts outside the
  ranges of 10_state.md R29. Safe: no state that meets `State.inv` raises it (log 19). -/
  | registerRange
  deriving DecidableEq, Repr

/-- Why an instruction is given no meaning. -/
inductive Refusal where
  /-- Raised by `exec` for an instruction without a meaning yet. Safe: the machine stops. -/
  | notModelled (mnemonic : String)
  deriving DecidableEq, Repr

/-- What a step of the machine answers. -/
abbrev Result := Host.Outcome State Fault Refusal

/-- A block right after reset (10_state.md R34). `S` to `v` are "unspecified" there: DESIGN CHOICE 0, log 2. -/
def Block.reset (port : Port) : Block where
  done := false
  err := false
  errcode := 0
  srcAddr := 0
  srcLen := 0
  dstAddr := 0
  resultLen := 0
  fsm := .idle
  S := 0
  L := 0
  D := 0
  i := 0
  cur := 0
  codep := 0
  code := 0
  byte := 0
  block := 0
  zpend := false
  v := 0
  port := port
  duties := []

/-- The machine right after reset (10_state.md R34, 70_reset_and_hazards.md R158): no Host program is loaded (log 6).
The open parameters stand at named values: DESIGN CHOICE, log 1. -/
def State.reset : State where
  blk := Block.reset { base := 0x40000000, denied := [] }
  peers := []
  mem := []
  faults := { hostProtocol := false, hostRace := false }
  hostQueue := []
  reads := []
  sched := []
  draws := 0
  platform := { sharedMap := false, hostDenied := [] }

end Sys2Proof.Machine
end

