-- ==== Sys2Proof/Machine/Flags.lean ====
section
/-! DEFINITION. The STATUS word and every action that writes its flags. -/

namespace Sys2Proof.Machine

/-- STATUS.BUSY (10_state.md R23, R30): 1 exactly when `fsm ≠ IDLE`. -/
def Block.busy (b : Block) : Bool := b.fsm != .idle

/-- The value of STATUS.ERRCODE (60_exceptions.md R136). -/
def ErrCode.bits : ErrCode → BitVec 4
  | .none => 0
  | .illegalCmd => 1
  | .nullBuffer => 2
  | .addrRange => 3
  | .overlap => 4

/-- The word a read of STATUS returns (40_command.md R80). -/
def Block.statusWord (b : Block) : Word :=
  (b.errcode.setWidth 32 <<< 4) ||| ((BitVec.ofBool b.err).setWidth 32 <<< 2)
    ||| ((BitVec.ofBool b.done).setWidth 32 <<< 1) ||| (BitVec.ofBool b.busy).setWidth 32

/-- The flags of an accept: STATUS ← 0x00000001, where BUSY comes from `fsm` (40_command.md R82). -/
def Block.acceptFlags (b : Block) : Block :=
  { b with done := false, err := false, errcode := ErrCode.none.bits }

/-- The flags of a completion: STATUS ← 0x00000002, where BUSY comes from `fsm` (40_command.md R86). -/
def Block.completeFlags (b : Block) : Block :=
  { b with done := true, err := false, errcode := ErrCode.none.bits }

/-- The flags of a rejection: STATUS ← (e << 4) | 0x6 (40_command.md R88). -/
def Block.rejectFlags (e : ErrCode) (b : Block) : Block :=
  { b with done := true, err := true, errcode := e.bits }

end Sys2Proof.Machine
end

