-- ==== Sys2Proof/Machine/Operands.lean ====
section
/-! DEFINITION. The operands of a command: sizes, regions, the acceptance check, the latching, and the start and
next states of an operation. -/

namespace Sys2Proof.Machine

/-- `ceil_div` (00_scope.md R8). -/
def ceilDiv (a b : Nat) : Nat := (a + b - 1) / b

/-- CAP_ENC (00_scope.md R10). -/
def capEnc (l : Nat) : Nat := l + ceilDiv l Config.fullRun + 2

/-- CAP_DEC (00_scope.md R10). -/
def capDec (l : Nat) : Nat := l

/-- NMAX (00_scope.md R10). -/
def nmax (l : Nat) : Nat := l + 2 + (if l = 0 then 0 else (l - 1) / Config.fullRun)

/-- The destination capacity the checks use for a command (40_command.md R83). -/
def capOf (cmd : Command) (l : Nat) : Nat :=
  match cmd with
  | .encode => capEnc l
  | .decode => capDec l
  | .illegal => capDec l

/-- A set of addresses [lo, hi). -/
abbrev Region := Nat × Nat

/-- Do two regions share an address? They do exactly when both are non-empty and each starts before the other ends
(40_command.md R83). -/
def Region.meets (r q : Region) : Bool := r.1 < r.2 && q.1 < q.2 && r.1 < q.2 && q.1 < r.2

/-- SRC_REGION (20_memory.md R46). -/
def srcRegion (s l : Word) : Region := (s.toNat, s.toNat + l.toNat)

/-- DST_REGION (20_memory.md R46, D23). -/
def dstRegion (cmd : Command) (l d : Word) : Region := (d.toNat, d.toNat + capOf cmd l.toNat)

/-- The acceptance check (40_command.md R83): the first test that applies gives the code. -/
def check (cmd : Command) (sa sl da : Word) : ErrCode :=
  if cmd = .illegal then .illegalCmd
  else if sa = Config.nullAddr ∨ da = Config.nullAddr then .nullBuffer
  else if sa.toNat + sl.toNat > Config.memSize ∨ da.toNat + capOf cmd sl.toNat > Config.memSize then .addrRange
  else if (srcRegion sa sl).meets (dstRegion cmd sl da) then .overlap
  else .none

/-- Operand assembly (30_encoding.md R68): the registers at the moment of the CMD write. -/
def Block.latch (b : Block) : Block := { b with S := b.srcAddr, L := b.srcLen, D := b.dstAddr }

/-- `enc_next` (41_encoder.md R97). -/
def Block.encNext (b : Block) : Fsm := if b.i < b.L then .encRead else .encFinal

/-- `dec_next` (42_decoder.md R117). -/
def Block.decNext (b : Block) : Fsm :=
  if b.i < b.L then (if b.block = 0 then .decCode else .decRead) else .complete

/-- Enter the state `enc_next` names. -/
def Block.toEncNext (b : Block) : Block := { b with fsm := b.encNext }

/-- Enter the state `dec_next` names. -/
def Block.toDecNext (b : Block) : Block := { b with fsm := b.decNext }

/-- `enc_init` (41_encoder.md R96). -/
def Block.encInit (b : Block) : Block :=
  ({ b with i := 0, cur := 1, codep := 0, code := 1 } : Block).toEncNext

/-- `dec_init` (42_decoder.md R116). -/
def Block.decInit (b : Block) : Block :=
  ({ b with i := 0, cur := 0, block := 0, zpend := false } : Block).toDecNext

/-- The start of a command (40_command.md R82). `illegal` never passes the check. -/
def Block.init (cmd : Command) (b : Block) : Block :=
  match cmd with
  | .encode => b.encInit
  | .decode => b.decInit
  | .illegal => b

/-- The regions of a duty (20_memory.md R46). -/
def Duty.src (u : Duty) : Region := srcRegion u.s u.l

/-- The regions of a duty (20_memory.md R46). -/
def Duty.dst (u : Duty) : Region := dstRegion u.cmd u.l u.d

/-- Does an access by another agent break the duty (20_memory.md R63, clauses 1 and 2)? -/
def Duty.forbids (u : Duty) (kind : AccessKind) (r : Region) : Bool :=
  r.meets u.dst || (kind == .write && r.meets u.src)

/-- Do the buffers of two concurrently busy instances clash (20_memory.md R63, clause 4)? -/
def Duty.clashes (u w : Duty) : Bool := u.dst.meets w.src || u.dst.meets w.dst || w.dst.meets u.src

/-- The register window of an instance (10_state.md R21). -/
def windowRegion (p : Port) : Region := (p.base, p.base + Config.windowBytes)

/-- Does a buffer of the operation cover the window (20_memory.md R63, clause 3)? -/
def Duty.covers (u : Duty) (p : Port) : Bool := u.src.meets (windowRegion p) || u.dst.meets (windowRegion p)

/-- The duty an accept opens: the command and the registers it latches (20_memory.md R46). -/
def Block.newDuty (cmd : Command) (b : Block) : Duty := { cmd := cmd, s := b.srcAddr, l := b.srcLen, d := b.dstAddr }

end Sys2Proof.Machine
end

