-- ==== Sys2Proof/Machine/Ops.lean ====
section
/-! DEFINITION. The shared operations: memory, the Engine's access primitives, recording a model fault, accepting a
command and rejecting one. -/

namespace Sys2Proof.Machine

/-! Memory (20_memory.md R45): 2^32 byte cells, one total order of accesses (R55). -/

/-- What a cell that nothing has written reads as. DESIGN CHOICE, log 4. -/
def Memory.unlisted : Byte := 0

/-- The byte at an address. -/
def Memory.readByte : Memory → Nat → Byte
  | [], _ => Memory.unlisted
  | (k, x) :: m, a => if k = a then x else Memory.readByte m a

/-- Put a byte in front, unless it is what an unlisted cell reads as. -/
def Memory.consByte (a : Nat) (x : Byte) (m : Memory) : Memory := if x = Memory.unlisted then m else (a, x) :: m

/-- Write a byte at an address, keeping the canonical form. -/
def Memory.writeByte : Memory → Nat → Byte → Memory
  | [], a, x => Memory.consByte a x []
  | (k, y) :: m, a, x =>
    if a < k then Memory.consByte a x ((k, y) :: m)
    else if a = k then Memory.consByte a x m
    else (k, y) :: Memory.writeByte m a x

/-- Element j of a buffer is the cell at base + j (20_memory.md R47). -/
def Memory.readBytes (m : Memory) (a : Nat) : Nat → List Byte
  | 0 => []
  | n + 1 => m.readByte a :: Memory.readBytes m (a + 1) n

/-- Write bytes, the first at the lowest address (20_memory.md R47, 30_encoding.md R70 `MEM`). -/
def Memory.writeBytes (m : Memory) (a : Nat) : List Byte → Memory
  | [] => m
  | x :: xs => Memory.writeBytes (m.writeByte a x) (a + 1) xs

/-- Rising addresses from `lo` on, each an address of the memory and each listed with a value of its own. -/
def Memory.wfFrom (lo : Nat) : Memory → Bool
  | [] => true
  | (k, x) :: m => decide (lo ≤ k) && decide (k < Config.memSize) && x != Memory.unlisted && Memory.wfFrom (k + 1) m

/-- The canonical form of a memory. -/
def Memory.wf (m : Memory) : Bool := m.wfFrom 0

/-- MEM_ADMIT (00_scope.md R6, 20_memory.md R52): admitted, unless the parameter denies it. -/
def memAdmit (denied : List Denied) (kind : AccessKind) (a : Nat) : Bool :=
  !denied.any fun d => d.kind == kind && decide (d.lo ≤ a) && decide (a < d.hi)

/-- MEM_ADMIT for an access of several bytes: every byte is admitted. -/
def memAdmitAll (denied : List Denied) (kind : AccessKind) (a : Nat) : Nat → Bool
  | 0 => true
  | n + 1 => memAdmit denied kind a && memAdmitAll denied kind (a + 1) n

/-! State updates. -/

/-- Replace the instance in focus. -/
def State.withBlk (s : State) (b : Block) : State := { s with blk := b }

/-- Replace the memory. -/
def State.withMem (s : State) (m : Memory) : State := { s with mem := m }

/-- A register read returns a value to the Host (30_encoding.md R70). -/
def State.pushRead (s : State) (r : HostRead) : State := { s with reads := r :: s.reads }

/-- Count one free value as drawn. -/
def State.nextDraw (s : State) : State := { s with draws := s.draws + 1 }

/-- Replace the Host's remaining program. -/
def State.withQueue (s : State) (q : List HostAction) : State := { s with hostQueue := q }

/-- Replace the listed turns. -/
def State.withSched (s : State) (ts : List Turn) : State := { s with sched := ts }

/-- Set the flag of a model fault; no flag is ever cleared (60_exceptions.md R147). -/
def FaultFlags.set (f : FaultFlags) : ModelFault → FaultFlags
  | .hostProtocol => { f with hostProtocol := true }
  | .hostRace => { f with hostRace := true }

/-- `raise ModelFault(kind)` (00_scope.md R9, 60_exceptions.md R147): the fault is recorded and no register changes
(40_command.md R84). -/
def State.record (s : State) (k : ModelFault) : State := { s with faults := s.faults.set k }

/-- Record a fault if a condition holds. -/
def State.recordIf (s : State) (c : Bool) (k : ModelFault) : State :=
  { s with faults := if c then s.faults.set k else s.faults }

/-! Buffer duties (20_memory.md R63). -/

/-- Does an access by an agent that is no Engine of these blocks break one of their open duties? -/
def breaksDuty (bs : List Block) (kind : AccessKind) (r : Region) : Bool :=
  bs.any fun b => b.duties.any fun u => u.forbids kind r

/-- A Host access to memory: HostRace if it breaks a duty of any instance (20_memory.md R63, clauses 1 and 2). -/
def State.noteHost (s : State) (kind : AccessKind) (r : Region) : State :=
  s.recordIf (breaksDuty (s.blk :: s.peers) kind r) .hostRace

/-- An access by this instance's Engine: HostRace if it breaks a duty of another instance (20_memory.md R63). -/
def State.noteEngine (s : State) (kind : AccessKind) (a : Nat) : State :=
  s.recordIf (breaksDuty s.peers kind (a, a + 1)) .hostRace

/-- Is the instance busy with an operation whose buffers clash with these (20_memory.md R63, clause 4)? -/
def Block.clashesWith (b : Block) (u : Duty) : Bool :=
  b.busy && (match b.duties with | w :: _ => u.clashes w | [] => false)

/-- Do the buffers of an operation break clause 3 or 4 of 20_memory.md R63 at its accept? Clause 3 asks whether a
buffer covers a register window, which is a question only where both lie in one address map (R45). Log 11. -/
def State.acceptRace (s : State) (u : Duty) : Bool :=
  (s.platform.sharedMap && (s.blk :: s.peers).any fun b => u.covers b.port) || s.peers.any fun b => b.clashesWith u

/-! Engine access primitives (20_memory.md R52). The continuation is the rest of the step. An access the platform
does not admit is no step: the state stays as it is. -/

/-- `MemRead(a, 1)` by the Engine in focus. -/
def memRead (a : Nat) (s : State) (k : Byte → State → Result) : Result :=
  if Config.memSize ≤ a then .fault .requireRange
  else if memAdmit s.blk.port.denied .read a then k (s.mem.readByte a) (s.noteEngine .read a)
  else .next s

/-- `MemWrite(a, 1, x)` by the Engine in focus. -/
def memWrite (a : Nat) (x : Byte) (s : State) (k : State → Result) : Result :=
  if Config.memSize ≤ a then .fault .requireRange
  else if memAdmit s.blk.port.denied .write a then
    k ((s.withMem (s.mem.writeByte a x)).noteEngine .write a)
  else .next s

/-- "A value stored into a register of width w must be below 2^w" (00_scope.md R8), for a 32-bit register. -/
def fitWord (n : Nat) (k : Word → Result) : Result :=
  if n < 2 ^ 32 then k (BitVec.ofNat 32 n) else .fault .registerRange

/-- The same for an 8-bit register. -/
def fitByte (n : Nat) (k : Byte → Result) : Result :=
  if n < 2 ^ 8 then k (BitVec.ofNat 8 n) else .fault .registerRange

/-! Accept, reject, complete. -/

/-- `reject(e)` (40_command.md R88, 60_exceptions.md R145), the hardware's one way to report an error: STATUS and
RESULT_LEN are written and nothing else. -/
def reject (e : ErrCode) (s : State) : Result :=
  .next (s.withBlk { s.blk.rejectFlags e with resultLen := 0 })

/-- The accept (40_command.md R82): latch, STATUS ← 1, start the operation. It opens the Host's duty on the buffers
(20_memory.md R63). -/
def accept (cmd : Command) (s : State) : Result :=
  .next ((s.withBlk { s.blk.latch.acceptFlags.init cmd with duties := s.blk.newDuty cmd :: s.blk.duties }).recordIf
    (s.acceptRace (s.blk.newDuty cmd)) .hostRace)

/-- The COMPLETE step (40_command.md R86). -/
def completeOp (s : State) : Result :=
  .next (s.withBlk { s.blk.completeFlags with resultLen := s.blk.cur, fsm := .idle })

/-- A Host write of the word `w` to CMD (40_command.md R82, R85). -/
def writeCommand (w : Word) (s : State) : Result :=
  if s.blk.busy then .next (s.record .hostProtocol)
  else
    match check (decodeCmd w) s.blk.srcAddr s.blk.srcLen s.blk.dstAddr with
    | .none => accept (decodeCmd w) s
    | .illegalCmd => reject .illegalCmd s
    | .nullBuffer => reject .nullBuffer s
    | .addrRange => reject .addrRange s
    | .overlap => reject .overlap s

/-- A register read that returns the word `x`. -/
def returnWord (x : Word) (s : State) : Result := .next (s.pushRead (.reg x))

end Sys2Proof.Machine
end

