-- ==== Sys2Proof/Machine/CommandWrite.lean ====
section
/-! DEFINITION. Meanings of the command writes (40_command.md R82, 41_encoder.md R95, 42_decoder.md R115). -/

namespace Sys2Proof.Machine

/-- ENCODE: the CMD word 0x00000001 (30_encoding.md R66, 41_encoder.md R95). -/
def execEncode (s : State) : Result := writeCommand 0x00000001#32 s

/-- DECODE: the CMD word 0x00000002 (30_encoding.md R66, 42_decoder.md R115). -/
def execDecode (s : State) : Result := writeCommand 0x00000002#32 s

/-- WR CMD with any data word (40_command.md R82). -/
def execWrCmd (w : Word) (s : State) : Result := writeCommand w s

end Sys2Proof.Machine
end

