-- ==== Sys2Proof/Machine/Register.lean ====
section
/-! DEFINITION. Meanings of the parameter register accesses (40_command.md R76, R77). -/

namespace Sys2Proof.Machine

/-- WR SRC_ADDR (40_command.md R76). -/
def execWrSrcAddr (x : Word) (s : State) : Result := .next (s.withBlk { s.blk with srcAddr := x })

/-- WR SRC_LEN (40_command.md R76). -/
def execWrSrcLen (x : Word) (s : State) : Result := .next (s.withBlk { s.blk with srcLen := x })

/-- WR DST_ADDR (40_command.md R76). -/
def execWrDstAddr (x : Word) (s : State) : Result := .next (s.withBlk { s.blk with dstAddr := x })

/-- RD SRC_ADDR (40_command.md R77). -/
def execRdSrcAddr (s : State) : Result := returnWord s.blk.srcAddr s

/-- RD SRC_LEN (40_command.md R77). -/
def execRdSrcLen (s : State) : Result := returnWord s.blk.srcLen s

/-- RD DST_ADDR (40_command.md R77). -/
def execRdDstAddr (s : State) : Result := returnWord s.blk.dstAddr s

end Sys2Proof.Machine
end

