-- ==== Sys2Proof/Machine/Status.lean ====
section
/-! DEFINITION. Meanings of the status and result reads (40_command.md R80, R81). -/

namespace Sys2Proof.Machine

/-- RD STATUS (40_command.md R80): returns the word, writes no register. A read that returns BUSY = 0 ends the Host's
duties on the instance's buffers (20_memory.md R63, log 10). -/
def execRdStatus (s : State) : Result :=
  returnWord s.blk.statusWord (if s.blk.busy then s else s.withBlk { s.blk with duties := [] })

/-- RD RESULT_LEN (40_command.md R81): RESULT_LEN when idle, any 32-bit value while BUSY (a free value, log 5). -/
def execRdResultLen (s : State) : Result :=
  if s.blk.busy then returnWord (Config.resultLenDraw s.draws) s.nextDraw
  else returnWord s.blk.resultLen s

end Sys2Proof.Machine
end

