-- ==== Sys2Proof/Machine/Dispatch.lean ====
section
/-! DEFINITION. One arm per instruction, each a call of its meaning. -/

namespace Sys2Proof.Machine

-- The Host's register access, acting on the instance in focus.
def exec (i : Instr) (s : State) : Host.Outcome State Fault Refusal :=
  match i with
  | .encode => Sys2Proof.Machine.execEncode s
  | .decode => Sys2Proof.Machine.execDecode s
  | .wrCmd w => Sys2Proof.Machine.execWrCmd w s
  | .rdStatus => Sys2Proof.Machine.execRdStatus s
  | .wrSrcAddr x => Sys2Proof.Machine.execWrSrcAddr x s
  | .rdSrcAddr => Sys2Proof.Machine.execRdSrcAddr s
  | .wrSrcLen x => Sys2Proof.Machine.execWrSrcLen x s
  | .rdSrcLen => Sys2Proof.Machine.execRdSrcLen s
  | .wrDstAddr x => Sys2Proof.Machine.execWrDstAddr x s
  | .rdDstAddr => Sys2Proof.Machine.execRdDstAddr s
  | .rdResultLen => Sys2Proof.Machine.execRdResultLen s

end Sys2Proof.Machine
end

