-- ==== Sys2Proof/Machine/Decoder.lean ====
section
/-! DEFINITION. The Engine's DECODE steps (42_decoder.md R118 to R121). -/

namespace Sys2Proof.Machine

/-- What DEC_CODE does with the code byte it has read (42_decoder.md R118). -/
def Block.takeCode (c : Byte) (b : Block) : Block :=
  if c = 0 then { b with fsm := .complete }
  else
    let b' := { b with block := c - 1, zpend := c != Config.fullCode }
    if b.zpend then { b' with fsm := .decZero } else b'.toDecNext

/-- DEC_CODE (42_decoder.md R118). -/
def decCodeStep (s : State) : Result :=
  memRead (s.blk.S.toNat + s.blk.i.toNat) s fun c s =>
  fitWord (s.blk.i.toNat + 1) fun i =>
  .next (s.withBlk (({ s.blk with i := i } : Block).takeCode c))

/-- DEC_ZERO (42_decoder.md R119). -/
def decZeroStep (s : State) : Result :=
  memWrite (s.blk.D.toNat + s.blk.cur.toNat) 0x00#8 s fun s =>
  fitWord (s.blk.cur.toNat + 1) fun cur =>
  .next (s.withBlk ({ s.blk with cur := cur } : Block).toDecNext)

/-- DEC_READ (42_decoder.md R120). -/
def decReadStep (s : State) : Result :=
  memRead (s.blk.S.toNat + s.blk.i.toNat) s fun x s =>
  fitWord (s.blk.i.toNat + 1) fun i =>
  .next (s.withBlk { s.blk with v := x, i := i, fsm := .decWrite })

/-- DEC_WRITE (42_decoder.md R121): whatever the byte is, it is data. -/
def decWriteStep (s : State) : Result :=
  memWrite (s.blk.D.toNat + s.blk.cur.toNat) s.blk.v s fun s =>
  fitWord (s.blk.cur.toNat + 1) fun cur =>
  if s.blk.block = 0 then .fault .registerRange
  else .next (s.withBlk ({ s.blk with cur := cur, block := s.blk.block - 1 } : Block).toDecNext)

end Sys2Proof.Machine
end

