-- ==== Sys2Proof/Machine/Encoder.lean ====
section
/-! DEFINITION. The Engine's ENCODE steps (41_encoder.md R98 to R103). -/

namespace Sys2Proof.Machine

/-- ENC_READ (41_encoder.md R98). -/
def encReadStep (s : State) : Result :=
  memRead (s.blk.S.toNat + s.blk.i.toNat) s fun x s =>
  fitWord (s.blk.i.toNat + 1) fun i =>
  .next (s.withBlk { s.blk with byte := x, i := i, fsm := if x ≠ 0 then .encLit else .encFinZero })

/-- ENC_LIT (41_encoder.md R99). -/
def encLitStep (s : State) : Result :=
  memWrite (s.blk.D.toNat + s.blk.cur.toNat) s.blk.byte s fun s =>
  fitWord (s.blk.cur.toNat + 1) fun cur =>
  fitByte (s.blk.code.toNat + 1) fun code =>
  let b := { s.blk with cur := cur, code := code }
  .next (s.withBlk (if code = Config.fullCode then { b with fsm := .encFinFull } else b.toEncNext))

/-- ENC_FIN_ZERO (41_encoder.md R100). -/
def encFinZeroStep (s : State) : Result :=
  memWrite (s.blk.D.toNat + s.blk.codep.toNat) s.blk.code s fun s =>
  fitWord (s.blk.cur.toNat + 1) fun cur =>
  .next (s.withBlk ({ s.blk with code := 1, codep := s.blk.cur, cur := cur } : Block).toEncNext)

/-- ENC_FIN_FULL (41_encoder.md R101): the next slot is reserved only if input remains. -/
def encFinFullStep (s : State) : Result :=
  memWrite (s.blk.D.toNat + s.blk.codep.toNat) Config.fullCode s fun s =>
  let b := { s.blk with code := 1, codep := s.blk.cur }
  if s.blk.i < s.blk.L then
    fitWord (s.blk.cur.toNat + 1) fun cur => .next (s.withBlk ({ b with cur := cur } : Block).toEncNext)
  else .next (s.withBlk b.toEncNext)

/-- ENC_FINAL (41_encoder.md R102). -/
def encFinalStep (s : State) : Result :=
  memWrite (s.blk.D.toNat + s.blk.codep.toNat) s.blk.code s fun s =>
  .next (s.withBlk { s.blk with fsm := .encDelim })

/-- ENC_DELIM (41_encoder.md R103). -/
def encDelimStep (s : State) : Result :=
  memWrite (s.blk.D.toNat + s.blk.cur.toNat) Config.delimiter s fun s =>
  fitWord (s.blk.cur.toNat + 1) fun cur =>
  .next (s.withBlk { s.blk with cur := cur, fsm := .complete })

end Sys2Proof.Machine
end

