-- ==== Sys2Proof/Machine/Engine.lean ====
section
/-! DEFINITION. One step of the Engine in focus, when it is enabled, and several of them. -/

namespace Sys2Proof.Machine

/-- The step rule of each Engine state (10_state.md R30). An idle Engine takes none. -/
def engineStep (s : State) : Result :=
  match s.blk.fsm with
  | .idle => .next s
  | .encRead => encReadStep s
  | .encLit => encLitStep s
  | .encFinZero => encFinZeroStep s
  | .encFinFull => encFinFullStep s
  | .encFinal => encFinalStep s
  | .encDelim => encDelimStep s
  | .decCode => decCodeStep s
  | .decZero => decZeroStep s
  | .decRead => decReadStep s
  | .decWrite => decWriteStep s
  | .complete => completeOp s

/-- The memory request of the Engine's next step, if it has one: its kind and address. -/
def Block.request (b : Block) : Option (AccessKind × Nat) :=
  match b.fsm with
  | .idle => none
  | .encRead => some (.read, b.S.toNat + b.i.toNat)
  | .encLit => some (.write, b.D.toNat + b.cur.toNat)
  | .encFinZero => some (.write, b.D.toNat + b.codep.toNat)
  | .encFinFull => some (.write, b.D.toNat + b.codep.toNat)
  | .encFinal => some (.write, b.D.toNat + b.codep.toNat)
  | .encDelim => some (.write, b.D.toNat + b.cur.toNat)
  | .decCode => some (.read, b.S.toNat + b.i.toNat)
  | .decZero => some (.write, b.D.toNat + b.cur.toNat)
  | .decRead => some (.read, b.S.toNat + b.i.toNat)
  | .decWrite => some (.write, b.D.toNat + b.cur.toNat)
  | .complete => none

/-- "An Engine step is enabled exactly when `fsm ≠ IDLE` and the step's memory request, if it has one, is admitted by
MEM_ADMIT" (40_command.md R75). -/
def Block.enabled (b : Block) : Bool :=
  b.busy && (match b.request with | none => true | some (kind, a) => memAdmit b.port.denied kind a)

/-- `n` steps of the Engine in focus with no other agent between them. -/
def engineRun : Nat → State → Result
  | 0, s => .next s
  | n + 1, s =>
    match engineStep s with
    | .next t => engineRun n t
    | .fault r => .fault r
    | .refused r => .refused r

end Sys2Proof.Machine
end

