-- ==== Sys2Proof/Machine/Turns.lean ====
section
/-! DEFINITION. One turn of each agent: the Host's next action, an Engine step, a reset event; and whose turn it is. -/

namespace Sys2Proof.Machine

/-- Exchange the instance in focus with the j-th of `peers`, given what stands there. -/
def State.swap (s : State) (j : Nat) (b : Block) : State := { s with blk := b, peers := s.peers.set j s.blk }

/-- Undo `swap`. -/
def State.unswap (j : Nat) (s : State) : State :=
  match s.peers[j]? with
  | some b => s.swap j b
  | none => s

/-- Go on from a next state; a stop stays a stop. -/
def andThen (r : Result) (f : State → Result) : Result :=
  match r with
  | .next s => f s
  | .fault e => .fault e
  | .refused e => .refused e

/-- Act on instance `k` (0 is the one in focus): bring it into focus, act, put it back. `absent` is the answer where
there is no such instance. -/
def atBlock (k : Nat) (f : State → Result) (absent : Result) (s : State) : Result :=
  match k with
  | 0 => f s
  | j + 1 =>
    match s.peers[j]? with
    | some b => andThen (f (s.swap j b)) fun t => .next (t.unswap j)
    | none => absent

/-- The instance whose register window an access touches. -/
def State.windowOf (s : State) (r : Region) : Option Nat :=
  (s.blk :: s.peers).findIdx? fun b => r.meets (windowRegion b.port)

/-- The addresses a bus access covers. -/
def busRegion (x : Bus) : Region := (x.addr, x.addr + x.width)

/-- The kind of a bus access (20_memory.md R52). -/
def busKind (x : Bus) : AccessKind := if x.isWrite then .write else .read

/-- Does a byte of the access that lies in no register window break an open duty (20_memory.md R63, clauses 1 and 2)? -/
def State.touchesBeside (s : State) (x : Bus) : Bool :=
  (List.range' x.addr x.width).any fun a =>
    (s.windowOf (a, a + 1)).isNone && breaksDuty (s.blk :: s.peers) (busKind x) (a, a + 1)

/-- Where memory and registers share one address map, an access to a window that also touches memory cells beside it is an
access to those cells: HostRace if that breaks a duty (70_reset_and_hazards.md R162, log 16). -/
def State.noteBeside (s : State) (x : Bus) : State :=
  s.recordIf (s.platform.sharedMap && s.touchesBeside x) .hostRace

/-- A register access that reaches the instance in focus: the instruction it decodes to, or a host-protocol violation,
which is recorded and changes no register (40_command.md R84). -/
def windowStep (x : Bus) (s : State) : Result :=
  match decode s.blk.port.base x with
  | .ok i => exec i s
  | .error _ => .next (s.record .hostProtocol)

/-- A Host access on the register port. One that reaches no window stops the model (log 15). A byte of it outside every
window is a memory cell where the map is shared. -/
def regAccess (x : Bus) (s : State) : Result :=
  match s.windowOf (busRegion x) with
  | some k => atBlock k (windowStep x) (.fault .noWindow) (s.noteBeside x)
  | none => .fault .noWindow

/-- A Host access to memory of any width, in one step (20_memory.md R50, log 21). `s` still has the action in its
queue, `q` is the queue behind it: the Host waits while the platform does not admit the access (log 13). -/
def memAccess (x : Bus) (q : List HostAction) (s : State) : Result :=
  if Config.memSize < x.addr + x.width then .fault .hostAddress
  else
    match x with
    | .rd a n =>
      if memAdmitAll s.platform.hostDenied .read a n then
        .next (((s.withQueue q).noteHost .read (a, a + n)).pushRead (.mem (s.mem.readBytes a n)))
      else .next s
    | .wr a d =>
      if memAdmitAll s.platform.hostDenied .write a d.length then
        .next (((s.withQueue q).noteHost .write (a, a + d.length)).withMem (s.mem.writeBytes a d))
      else .next s

/-- Did the STATUS read just made return BUSY = 1 (30_encoding.md R70, `POLL`)? -/
def State.readBusy (s : State) : Bool :=
  match s.reads with
  | .reg x :: _ => x.getLsbD 0
  | _ => false

/-- The Host's next action (30_encoding.md R70). Where memory and registers share one address map, a memory access
that touches a window is a register access (20_memory.md R45, R48, log 16). `POLL` stays in the program while the STATUS it
reads has BUSY = 1. -/
def hostTurn (s : State) : Result :=
  match s.hostQueue with
  | [] => .next s
  | .reg x :: q => regAccess x (s.withQueue q)
  | .mem x :: q =>
    if s.platform.sharedMap && (s.windowOf (busRegion x)).isSome then regAccess x (s.withQueue q)
    else memAccess x q s
  | .poll k :: q =>
    andThen (atBlock k (exec .rdStatus) (.fault .noWindow) (s.withQueue q)) fun t =>
      .next (if t.readBusy then t.withQueue (.poll k :: q) else t)

/-- The reset event of a block (70_reset_and_hazards.md R155): the values of 10_state.md R34, the internal registers
"unspecified" (free values, log 3). It ends no duty: only a STATUS read with BUSY = 0 does (20_memory.md R63, log 12). -/
def Block.resetEvent (n : Nat) (b : Block) : Block :=
  { Block.reset b.port with
    S := Config.resetWord n 0, L := Config.resetWord n 1, D := Config.resetWord n 2, i := Config.resetWord n 3
    cur := Config.resetWord n 4, codep := Config.resetWord n 5, code := Config.resetByte n 0
    byte := Config.resetByte n 1, block := Config.resetByte n 2, zpend := Config.resetBit n, v := Config.resetByte n 3
    duties := b.duties }

/-- The reset event of the instance in focus: memory and the model-fault flags are not changed (R155, R157). -/
def resetStep (s : State) : Result := .next ((s.withBlk (s.blk.resetEvent s.draws)).nextDraw)

/-- One listed turn. An Engine that is not enabled, or an instance that is not there, has no step (R75). -/
def runTurn (t : Turn) (s : State) : Result :=
  match t with
  | .host => hostTurn s
  | .engine k => atBlock k engineStep (.next s) s
  | .reset k => atBlock k resetStep (.next s) s

/-- With no turn listed: the first enabled Engine, else the Host (log 7). So an Engine step that stays enabled is
taken (70_reset_and_hazards.md R167). -/
def defaultTurn (s : State) : Turn :=
  match (s.blk :: s.peers).findIdx? Block.enabled with
  | some k => .engine k
  | none => .host

/-- The step of the whole machine: the next listed turn, or the default one. -/
def takeTurn (s : State) : Result :=
  match s.sched with
  | [] => runTurn (defaultTurn s) s
  | t :: ts => runTurn t (s.withSched ts)

end Sys2Proof.Machine
end

