-- ==== Sys2Proof/Machine/Step.lean ====
section
/-! DEFINITION. The machine's step, and where the host places the next instruction. -/

namespace Sys2Proof.Machine

/-- One step of the machine (00_scope.md R5). -/
def step (s : State) : Host.Outcome State Fault Refusal := takeTurn s

/-- Place the transaction of an opcode-table word as the Host's next action, and give the Host the next turn (log 6,
log 17): what the block is told, it is told by its Host. -/
def State.withFetchWord (s : State) (nbits w : Nat) : State :=
  match accessOfTableWord s.blk.port.base nbits w with
  | some x => { s with hostQueue := .reg x :: s.hostQueue, sched := .host :: s.sched }
  | none => s

end Sys2Proof.Machine
end

