-- ==== Sys2Proof/Machine/Transform.lean ====
section
/-! DEFINITION. The two transforms as pure functions (41_encoder.md R110, 42_decoder.md R130) and the counts of full
blocks (41_encoder.md R106, R109). -/

namespace Sys2Proof.Machine

/-- The variables of `encode_fn` (41_encoder.md R110): the output cells, the cursor, the code pointer, the code. -/
structure EncVars where
  out : List Byte
  cur : Nat
  codep : Nat
  code : Nat
  deriving DecidableEq, Repr

/-- The literal half of `encode_fn`'s loop body (41_encoder.md R110). -/
def encPut (x : Byte) (e : EncVars) : EncVars :=
  if x ≠ 0 then { e with out := e.out.set e.cur x, cur := e.cur + 1, code := e.code + 1 } else e

/-- The finalising half of `encode_fn`'s loop body (41_encoder.md R110); `more` says input remains after this byte. -/
def encFinalise (x : Byte) (more : Bool) (e : EncVars) : EncVars :=
  if x = 0 ∨ e.code = 255 then
    let e' := { e with out := e.out.set e.codep (BitVec.ofNat 8 e.code), code := 1, codep := e.cur }
    if x = 0 ∨ more then { e' with cur := e.cur + 1 } else e'
  else e

/-- `encode_fn`'s loop over the input (41_encoder.md R110). -/
def encLoop : List Byte → EncVars → EncVars
  | [], e => e
  | x :: xs, e => encLoop xs (encFinalise x (!xs.isEmpty) (encPut x e))

/-- `encode_fn` (41_encoder.md R110). -/
def encodeFn (b : List Byte) : List Byte :=
  let e := encLoop b { out := List.replicate (nmax b.length) 0, cur := 1, codep := 0, code := 1 }
  (((e.out.set e.codep (BitVec.ofNat 8 e.code)).set e.cur Config.delimiter).take (e.cur + 1))

/-- `decode_fn`'s loop (42_decoder.md R130), with the count of literals still to copy and the pending zero. -/
def decLoop : List Byte → Nat → Bool → List Byte
  | [], _, _ => []
  | c :: e, 0, z =>
    if c = 0 then []
    else (if z then [0x00#8] else []) ++ decLoop e (c.toNat - 1) (c != Config.fullCode)
  | x :: e, n + 1, z => x :: decLoop e n z

/-- `decode_fn` (42_decoder.md R130). -/
def decodeFn (e : List Byte) : List Byte := decLoop e 0 false

/-- How many bytes `decode_fn` reads, the r of 42_decoder.md R125 and R129, with the count of literals still to copy. -/
def decReads : List Byte → Nat → Nat
  | [], _ => 0
  | c :: e, 0 => if c = 0 then 1 else 1 + decReads e (c.toNat - 1)
  | _ :: e, n + 1 => 1 + decReads e n

/-- The blocks that reach 254 literals, scanning from a code counter; `last` says whether one that ends the input
counts. -/
def fullBlocksFrom (last : Bool) : Nat → List Byte → Nat
  | _, [] => 0
  | code, x :: xs =>
    if x = 0 then fullBlocksFrom last 1 xs
    else if code + 1 = 255 then (if last || !xs.isEmpty then 1 else 0) + fullBlocksFrom last 1 xs
    else fullBlocksFrom last (code + 1) xs

/-- F(b): the full blocks finalised while input remains (41_encoder.md R106). -/
def fullBlocksMore (b : List Byte) : Nat := fullBlocksFrom false 1 b

/-- G(b): all ENC_FIN_FULL steps (41_encoder.md R109). -/
def fullBlocksAll (b : List Byte) : Nat := fullBlocksFrom true 1 b

/-- The Engine steps of an ENCODE, COMPLETE included (41_encoder.md R109). -/
def encodeSteps (b : List Byte) : Nat := 2 * b.length + fullBlocksAll b + 3

/-- The Engine steps of a DECODE, COMPLETE included (42_decoder.md R129). -/
def decodeSteps (e : List Byte) : Nat := decReads e 0 + (decodeFn e).length + 1

end Sys2Proof.Machine
end

