-- ==== Sys2Proof/Safety.lean ====
section
/-! DEFINITION. What counts as a safe state and a finished run, in the terms the statements use. -/

namespace Sys2Proof.Machine

/-- The command an Engine state belongs to (10_state.md R30); IDLE and COMPLETE belong to both or none. -/
def Fsm.cmd : Fsm → Option Command
  | .idle => none
  | .encRead => some .encode
  | .encLit => some .encode
  | .encFinZero => some .encode
  | .encFinFull => some .encode
  | .encFinal => some .encode
  | .encDelim => some .encode
  | .decCode => some .decode
  | .decZero => some .decode
  | .decRead => some .decode
  | .decWrite => some .decode
  | .complete => none

/-- The largest RESULT_LEN of a command (10_state.md R29: cur ≤ NMAX(L) for ENCODE, cur ≤ L for DECODE). -/
def resultBound (cmd : Command) (l : Nat) : Nat :=
  match cmd with
  | .encode => nmax l
  | .decode => l
  | .illegal => 0

/-- STATUS and RESULT_LEN agree (10_state.md R23, R27): no flag while BUSY, an error code exactly with ERR, ERR only with
DONE, and RESULT_LEN 0 unless the last command completed. -/
abbrev Block.statusInv (b : Block) : Prop :=
  (b.busy = true → b.done = false ∧ b.err = false) ∧
  (b.err = false → b.errcode = 0) ∧
  (b.err = true → b.done = true ∧ 1 ≤ b.errcode.toNat ∧ b.errcode.toNat ≤ 4 ∧ b.resultLen = 0) ∧
  (b.busy = false → b.done = false → b.resultLen = 0)

/-- While busy, the newest duty holds the latched operands, they passed the acceptance check (40_command.md R82, R83),
and the Engine state is one of that command's (10_state.md R30). -/
abbrev Block.latchInv (b : Block) : Prop :=
  (b.duties = [] → b.busy = false) ∧
  ∀ u ∈ b.duties.head?, b.busy = true →
    u = { cmd := u.cmd, s := b.S, l := b.L, d := b.D } ∧ check u.cmd b.S b.L b.D = .none ∧
    (b.fsm.cmd = none ∨ b.fsm.cmd = some u.cmd) ∧ (b.fsm = .complete → b.cur.toNat ≤ resultBound u.cmd b.L.toNat)

/-- The encoder's cursor after `p` input bytes with `k` literals in the open block (41_encoder.md R106):
cur = p + 1 + F, where F full blocks have been finalised while input remained. -/
abbrev Block.encCursor (b : Block) (p k : Nat) : Prop :=
  p + 1 ≤ b.cur.toNat ∧ 254 * (b.cur.toNat - (p + 1)) + k ≤ p

/-- The ranges of 10_state.md R29 in ENC_READ. -/
abbrev Block.encReadInv (b : Block) : Prop :=
  b.fsm = .encRead → b.i.toNat < b.L.toNat ∧ b.encCursor b.i.toNat (b.code.toNat - 1) ∧
    b.codep.toNat < b.cur.toNat ∧ 1 ≤ b.code.toNat ∧ b.code.toNat ≤ 254

/-- The ranges of 10_state.md R29 in ENC_LIT and ENC_FIN_ZERO, which hold a byte not yet dealt with. -/
abbrev Block.encByteInv (b : Block) : Prop :=
  b.fsm = .encLit ∨ b.fsm = .encFinZero → 1 ≤ b.i.toNat ∧ b.i.toNat ≤ b.L.toNat ∧
    b.encCursor (b.i.toNat - 1) (b.code.toNat - 1) ∧ b.codep.toNat < b.cur.toNat ∧
    1 ≤ b.code.toNat ∧ b.code.toNat ≤ 254 ∧ (b.fsm = .encLit → b.byte ≠ 0) ∧ (b.fsm = .encFinZero → b.byte = 0)

/-- The ranges of 10_state.md R29 in ENC_FIN_FULL. -/
abbrev Block.encFullInv (b : Block) : Prop :=
  b.fsm = .encFinFull → b.i.toNat ≤ b.L.toNat ∧ b.encCursor b.i.toNat 254 ∧ b.codep.toNat < b.cur.toNat ∧ b.code = 255

/-- The ranges of 10_state.md R29 in ENC_FINAL and ENC_DELIM, after the scan. -/
abbrev Block.encEndInv (b : Block) : Prop :=
  b.fsm = .encFinal ∨ b.fsm = .encDelim → b.i = b.L ∧ b.L.toNat + 1 ≤ b.cur.toNat ∧
    (b.cur.toNat = b.L.toNat + 1 ∨ 254 * (b.cur.toNat - (b.L.toNat + 1)) < b.L.toNat) ∧
    b.codep.toNat ≤ b.cur.toNat ∧ 1 ≤ b.code.toNat ∧ b.code.toNat ≤ 254

/-- The ranges of 10_state.md R29 in each encoder state, with the cursor of 41_encoder.md R106. -/
abbrev Block.encInv (b : Block) : Prop := b.encReadInv ∧ b.encByteInv ∧ b.encFullInv ∧ b.encEndInv

/-- The ranges of 10_state.md R29 in each decoder state: every byte written is paired with a byte read, the first code
byte with none (42_decoder.md R125). -/
abbrev Block.decInv (b : Block) : Prop :=
  (b.fsm = .decCode → b.i.toNat < b.L.toNat ∧ b.block = 0 ∧
    ((b.i = 0 ∧ b.cur = 0 ∧ b.zpend = false) ∨ b.cur.toNat + 1 ≤ b.i.toNat)) ∧
  (b.fsm = .decZero → b.i.toNat ≤ b.L.toNat ∧ b.block.toNat ≤ 254 ∧ b.cur.toNat + 2 ≤ b.i.toNat) ∧
  (b.fsm = .decRead → b.i.toNat < b.L.toNat ∧ 1 ≤ b.block.toNat ∧ b.block.toNat ≤ 254 ∧
    b.cur.toNat + 1 ≤ b.i.toNat) ∧
  (b.fsm = .decWrite → b.i.toNat ≤ b.L.toNat ∧ 1 ≤ b.block.toNat ∧ b.block.toNat ≤ 254 ∧
    b.cur.toNat + 2 ≤ b.i.toNat)

/-- The invariant of one instance. -/
abbrev Block.inv (b : Block) : Prop := b.statusInv ∧ b.latchInv ∧ b.encInv ∧ b.decInv

/-- The invariant of the machine: every instance's, and the memory's canonical form. -/
abbrev State.inv (s : State) : Prop := s.blk.inv ∧ (∀ b ∈ s.peers, b.inv) ∧ s.mem.wf = true

/-- Every request of one kind inside a region is admitted by the Engine's MEM_ADMIT (20_memory.md R52). -/
abbrev Block.admits (b : Block) (kind : AccessKind) (r : Region) : Prop :=
  ∀ a, r.1 ≤ a → a < r.2 → memAdmit b.port.denied kind a = true

/-- What an Engine step leaves alone besides memory, its own registers and the fault flags: the other instances, the
Host's program and its variables, the schedule, the free values drawn, the parameters. -/
abbrev State.sameAround (s t : State) : Prop :=
  t.peers = s.peers ∧ t.hostQueue = s.hostQueue ∧ t.reads = s.reads ∧ t.sched = s.sched ∧ t.draws = s.draws ∧
    t.platform = s.platform

/-- `m'` is `m` with the byte `x` at `a`: every other byte reads as before. -/
abbrev Memory.storesOnly (m m' : Memory) (a : Nat) (x : Byte) : Prop :=
  ∀ c, m'.readByte c = if c = a then x else m.readByte c

/-- Every byte reads as before. -/
abbrev Memory.same (m m' : Memory) : Prop := ∀ c, m'.readByte c = m.readByte c

/-- A run is over when the Host has no step left and every Engine is idle (40_command.md R87). -/
abbrev State.over (s : State) : Prop := s.hostQueue = [] ∧ ∀ b ∈ s.blk :: s.peers, b.busy = false

/-- A successful end: over, and no model fault recorded (40_command.md R87, 60_exceptions.md R147). -/
abbrev State.successfulEnd (s : State) : Prop := s.over ∧ s.faults = { hostProtocol := false, hostRace := false }

end Sys2Proof.Machine
end

