-- ==== Sys2Proof/Certificates/Slice0/Obligations.lean ====
section
/-! DEFINITION. The statements for the provers. -/

open Sys2Proof Sys2Proof.Machine

/-! Encoding. -/

/-- The eleven rows of the opcode table decode to their instructions, and the keys the table of R72 leaves out decode to
none (30_encoding.md R66, R72). A write row has a data word of zeros. -/
def Obligations.TableRowsDecodeToTheirInstructions : Prop :=
  decodeTableWord 32 0x00000001 = some .encode ∧ decodeTableWord 32 0x00000002 = some .decode ∧
  decodeTableWord 8 0x20 = some (.wrCmd 0) ∧ decodeTableWord 8 0x04 = some .rdStatus ∧
  decodeTableWord 8 0x28 = some (.wrSrcAddr 0) ∧ decodeTableWord 8 0x08 = some .rdSrcAddr ∧
  decodeTableWord 8 0x2C = some (.wrSrcLen 0) ∧ decodeTableWord 8 0x0C = some .rdSrcLen ∧
  decodeTableWord 8 0x30 = some (.wrDstAddr 0) ∧ decodeTableWord 8 0x10 = some .rdDstAddr ∧
  decodeTableWord 8 0x14 = some .rdResultLen ∧ decodeTableWord 8 0x00 = none ∧ decodeTableWord 8 0x24 = none ∧
  decodeTableWord 8 0x34 = none ∧ decodeTableWord 8 0x18 = none ∧ decodeTableWord 8 0x1C = none ∧
  decodeTableWord 8 0x38 = none ∧ decodeTableWord 8 0x3C = none

/-- Decoding the bus transaction of a well-formed instruction gives the instruction back, at every window base and with
every data word. -/
def Obligations.DecodeOfEncodeIsTheInstruction : Prop :=
  ∀ (base : Nat) (i : Instr), i.wellFormed = true → decode base (encode base i) = .ok i

/-- Every access that decodes is the transaction of exactly the instruction it decodes to, and that instruction is well
formed: each transaction has one meaning. -/
def Obligations.EncodeOfDecodedAccessIsTheAccess : Prop :=
  ∀ (base : Nat) (x : Bus) (i : Instr), decode base x = .ok i → i.wellFormed = true ∧ encode base i = x

/-- R84 of the machine's step. A Host turn whose access reaches the window of an instance, the one in focus or another, as
a register access or, in a shared map, as a memory access (log 16), and is a read of CMD, a write to STATUS or RESULT_LEN,
an access at 0x18 or 0x1C, not 32 bits wide, not aligned, starting below the window (log 24), or a write to CMD while BUSY,
records HostProtocol, takes the action and the turn off their lists, and changes nothing else, but that in a shared map a
byte of it in no window that breaks an open duty records HostRace as well (R162, log 16). The same of the access on
its own, in focus, and of a command write while BUSY; and a state with the fault recorded is no successful end. R84 asks
only that no register changes: that the machine goes on, that nothing else changes and that a violating read returns no
value is the model's reading, log 8. -/
def Obligations.ProtocolViolationsOnlyRecordHostProtocol : Prop :=
  ∀ (s : State),
    (∀ (x : Bus) (q : List HostAction) (ts : List Turn) (k : Nat) (b : Block), s.sched = .host :: ts →
      s.hostQueue = .reg x :: q ∨ (s.platform.sharedMap = true ∧ s.hostQueue = .mem x :: q) →
      s.windowOf (busRegion x) = some k → (s.blk :: s.peers)[k]? = some b →
      (x = .rd b.port.base 4 ∨
        (∃ d, x = .wr (b.port.base + 0x04) d ∨ x = .wr (b.port.base + 0x14) d) ∨
        x.addr = b.port.base + 0x18 ∨ x.addr = b.port.base + 0x1C ∨
        x.width ≠ 4 ∨ (x.addr - b.port.base) % 4 ≠ 0 ∨ x.addr < b.port.base ∨
        (b.busy = true ∧ ∃ d, x = .wr b.port.base d)) →
      ∃ race : Bool, step s = .next { s with
        hostQueue := q, sched := ts, faults := { hostProtocol := true, hostRace := s.faults.hostRace || race } } ∧
        (race = true ↔ s.platform.sharedMap = true ∧ ∃ c, x.addr ≤ c ∧ c < x.addr + x.width ∧
          s.windowOf (c, c + 1) = none ∧
          breaksDuty (s.blk :: s.peers) (if x.isWrite then .write else .read) (c, c + 1) = true)) ∧
    (∀ x : Bus,
      (x = .rd s.blk.port.base 4 ∨
        (∃ d, x = .wr (s.blk.port.base + 0x04) d ∨ x = .wr (s.blk.port.base + 0x14) d) ∨
        x.addr = s.blk.port.base + 0x18 ∨ x.addr = s.blk.port.base + 0x1C ∨
        x.width ≠ 4 ∨ x.addr < s.blk.port.base ∨ (x.addr - s.blk.port.base) % 4 ≠ 0) →
      windowStep x s = .next { s with faults := { s.faults with hostProtocol := true } }) ∧
    (∀ w : Word, s.blk.busy = true →
      exec (.wrCmd w) s = .next { s with faults := { s.faults with hostProtocol := true } }) ∧
    (s.faults.hostProtocol = true → ¬ s.successfulEnd)

/-! A step runs the decoded instruction. -/

/-- When it is the Host's turn and its next action is a register access that decodes at a window, the step is the
instruction's effect on that instance, with the action and the turn taken off their lists. -/
def Obligations.StepRunsTheDecodedAccess : Prop :=
  ∀ (s : State) (x : Bus) (q : List HostAction) (ts : List Turn) (i : Instr),
    s.hostQueue = .reg x :: q → s.sched = .host :: ts →
    (decode s.blk.port.base x = .ok i → step s = exec i { s with hostQueue := q, sched := ts }) ∧
    (∀ (j : Nat) (b : Block), s.peers[j]? = some b → s.windowOf (busRegion x) = some (j + 1) →
      decode b.port.base x = .ok i →
      step s = andThen (exec i (State.swap { s with hostQueue := q, sched := ts } j b)) fun t => .next (t.unswap j))

/-- The step from a state in which a word of the opcode table has been placed as the Host's next action is the effect of
the instruction the word decodes to, on the state as it was before (log 6, log 17). -/
def Obligations.PlacedTableWordIsRunNext : Prop :=
  ∀ (s : State) (nbits w : Nat) (i : Instr),
    decodeTableWord nbits w = some i → step (s.withFetchWord nbits w) = exec i s

/-! Register accesses. -/

/-- R76: WR SRC_ADDR, WR SRC_LEN and WR DST_ADDR store the value, busy or not, and change nothing else: not STATUS, not the
latched S, L and D, not memory. -/
def Obligations.ParameterWritesStoreTheirValue : Prop :=
  ∀ (s : State) (x : Word),
    exec (.wrSrcAddr x) s = .next { s with blk := { s.blk with srcAddr := x } } ∧
    exec (.wrSrcLen x) s = .next { s with blk := { s.blk with srcLen := x } } ∧
    exec (.wrDstAddr x) s = .next { s with blk := { s.blk with dstAddr := x } }

/-- R77: RD SRC_ADDR, RD SRC_LEN and RD DST_ADDR return the register, busy or not, and change nothing but the Host's
variables; after a write they return the value written, after reset 0. -/
def Obligations.ParameterReadsReturnTheRegister : Prop :=
  (∀ s : State,
    exec .rdSrcAddr s = .next { s with reads := .reg s.blk.srcAddr :: s.reads } ∧
    exec .rdSrcLen s = .next { s with reads := .reg s.blk.srcLen :: s.reads } ∧
    exec .rdDstAddr s = .next { s with reads := .reg s.blk.dstAddr :: s.reads }) ∧
  (∀ (s : State) (x : Word), ∃ t1 t2 t3 u1 u2 u3,
    exec (.wrSrcAddr x) s = .next t1 ∧ exec .rdSrcAddr t1 = .next u1 ∧ u1.reads = .reg x :: s.reads ∧
    exec (.wrSrcLen x) s = .next t2 ∧ exec .rdSrcLen t2 = .next u2 ∧ u2.reads = .reg x :: s.reads ∧
    exec (.wrDstAddr x) s = .next t3 ∧ exec .rdDstAddr t3 = .next u3 ∧ u3.reads = .reg x :: s.reads) ∧
  State.reset.blk.srcAddr = 0 ∧ State.reset.blk.srcLen = 0 ∧ State.reset.blk.dstAddr = 0

/-- R80: RD STATUS returns ERRCODE·16 + ERR·4 + DONE·2 + BUSY and changes no register, no flag and no memory. (The open
buffer duties, which are the model's own record, end when BUSY = 0 was read: R63, log 10.) -/
def Obligations.StatusReadReturnsTheFlags : Prop :=
  ∀ s : State, ∃ w : Word,
    w.toNat = s.blk.errcode.toNat * 16 + s.blk.err.toNat * 4 + s.blk.done.toNat * 2 + (decide (s.blk.fsm ≠ .idle)).toNat ∧
    exec .rdStatus s = .next
      { s with reads := .reg w :: s.reads, blk := { s.blk with duties := if s.blk.busy then s.blk.duties else [] } }

/-- R23: with the status invariant, the STATUS word is one of the seven values, 0x1 exactly while busy, and BUSY and DONE
are never both 1. That the invariant holds along runs is `StepKeepsTheInvariant`. -/
def Obligations.StatusWordTakesOnlySevenValues : Prop :=
  ∀ b : Block, b.statusInv →
    (b.statusWord = 0x00 ∨ b.statusWord = 0x01 ∨ b.statusWord = 0x02 ∨ b.statusWord = 0x16 ∨ b.statusWord = 0x26 ∨
      b.statusWord = 0x36 ∨ b.statusWord = 0x46) ∧
    (b.statusWord = 0x01 ↔ b.fsm ≠ .idle) ∧ ¬ (b.busy = true ∧ b.done = true)

/-- R81: RD RESULT_LEN returns RESULT_LEN when idle and the drawn free value while BUSY; nothing else changes (log 5: the
draw is any 32-bit value). -/
def Obligations.ResultLenReadReturnsResultOrFreeValue : Prop :=
  ∀ s : State,
    (s.blk.fsm = .idle → exec .rdResultLen s = .next { s with reads := .reg s.blk.resultLen :: s.reads }) ∧
    (s.blk.fsm ≠ .idle → exec .rdResultLen s =
      .next { s with reads := .reg (Config.resultLenDraw s.draws) :: s.reads, draws := s.draws + 1 })

/-! Command writes. -/

/-- R137, R67: with BUSY = 0, every word but 0x00000001 and 0x00000002 is rejected with ILLEGAL_CMD, whatever the other
registers hold: STATUS and RESULT_LEN change and nothing else. -/
def Obligations.IllegalWordIsRejectedWithIllegalCmd : Prop :=
  ∀ (s : State) (w : Word), s.blk.fsm = .idle → w ≠ 0x00000001#32 → w ≠ 0x00000002#32 →
    exec (.wrCmd w) s =
      .next { s with blk := { s.blk with done := true, err := true, errcode := 1, resultLen := 0 } }

/-- R88: a command whose check gives a code e is rejected in its own step: STATUS ← (e << 4) | 6, RESULT_LEN ← 0, and
nothing else changes, memory and the Engine's registers included. -/
def Obligations.RejectionWritesStatusAndResultLenOnly : Prop :=
  ∀ (s : State) (e : ErrCode), s.blk.fsm = .idle → e ≠ .none →
    (check .encode s.blk.srcAddr s.blk.srcLen s.blk.dstAddr = e →
      exec .encode s =
        .next { s with blk := { s.blk with done := true, err := true, errcode := e.bits, resultLen := 0 } } ∧
      exec (.wrCmd 0x00000001#32) s = exec .encode s) ∧
    (check .decode s.blk.srcAddr s.blk.srcLen s.blk.dstAddr = e →
      exec .decode s =
        .next { s with blk := { s.blk with done := true, err := true, errcode := e.bits, resultLen := 0 } } ∧
      exec (.wrCmd 0x00000002#32) s = exec .decode s) ∧
    ({ s.blk with done := true, err := true, errcode := e.bits, resultLen := 0 } : Block).statusWord =
      (e.bits.setWidth 32 <<< 4) ||| 0x6#32

/-- R83: the first of the four tests that applies gives the code; CAP_ENC and CAP_DEC written out (00_scope.md R10). -/
def Obligations.AcceptanceCheckFollowsItsOrder : Prop :=
  ∀ (cmd : Command) (sa sl da : Word) (cap : Nat),
    cap = (if cmd = .encode then sl.toNat + (sl.toNat + 253) / 254 + 2 else sl.toNat) →
    (cmd = .illegal → check cmd sa sl da = .illegalCmd) ∧
    (cmd ≠ .illegal → sa.toNat = 0 ∨ da.toNat = 0 → check cmd sa sl da = .nullBuffer) ∧
    (cmd ≠ .illegal → sa.toNat ≠ 0 → da.toNat ≠ 0 → sa.toNat + sl.toNat > 2 ^ 32 ∨ da.toNat + cap > 2 ^ 32 →
      check cmd sa sl da = .addrRange) ∧
    (cmd ≠ .illegal → sa.toNat ≠ 0 → da.toNat ≠ 0 → sa.toNat + sl.toNat ≤ 2 ^ 32 → da.toNat + cap ≤ 2 ^ 32 →
      (sl.toNat > 0 ∧ cap > 0 ∧ sa.toNat < da.toNat + cap ∧ da.toNat < sa.toNat + sl.toNat →
        check cmd sa sl da = .overlap) ∧
      (¬ (sl.toNat > 0 ∧ cap > 0 ∧ sa.toNat < da.toNat + cap ∧ da.toNat < sa.toNat + sl.toNat) →
        check cmd sa sl da = .none))

/-- R82, R68, R96, R97: an ENCODE that passes the check is accepted in its own step: the operands are latched, STATUS
reads 1, RESULT_LEN and memory are unchanged, and the Engine starts with i = 0, cur = 1, codep = 0, code = 1 in ENC_READ, or
in ENC_FINAL for an empty source. WR CMD with the word 0x00000001 does the same. (The duty that opens is R63's; a race is
recorded by R63 clauses 3 and 4, log 11.) -/
def Obligations.AcceptedEncodeLatchesAndStarts : Prop :=
  ∀ s : State, s.blk.fsm = .idle → check .encode s.blk.srcAddr s.blk.srcLen s.blk.dstAddr = .none →
    ∃ t, exec .encode s = .next t ∧ exec (.wrCmd 0x00000001#32) s = .next t ∧
      t.blk = { s.blk with
        done := false, err := false, errcode := 0, S := s.blk.srcAddr, L := s.blk.srcLen, D := s.blk.dstAddr
        i := 0, cur := 1, codep := 0, code := 1, fsm := if s.blk.srcLen = 0 then .encFinal else .encRead
        duties := { cmd := .encode, s := s.blk.srcAddr, l := s.blk.srcLen, d := s.blk.dstAddr } :: s.blk.duties } ∧
      t.blk.statusWord = 0x00000001#32 ∧ t.mem = s.mem ∧ s.sameAround t ∧
      t.faults = (if s.acceptRace { cmd := .encode, s := s.blk.srcAddr, l := s.blk.srcLen, d := s.blk.dstAddr } then
        { s.faults with hostRace := true } else s.faults)

/-- R82, R68, R116, R117: an accepted DECODE starts with i = 0, cur = 0, block = 0, zpend = 0 in DEC_CODE, or in COMPLETE
for an empty source; the rest as for ENCODE. WR CMD with the word 0x00000002 does the same. -/
def Obligations.AcceptedDecodeLatchesAndStarts : Prop :=
  ∀ s : State, s.blk.fsm = .idle → check .decode s.blk.srcAddr s.blk.srcLen s.blk.dstAddr = .none →
    ∃ t, exec .decode s = .next t ∧ exec (.wrCmd 0x00000002#32) s = .next t ∧
      t.blk = { s.blk with
        done := false, err := false, errcode := 0, S := s.blk.srcAddr, L := s.blk.srcLen, D := s.blk.dstAddr
        i := 0, cur := 0, block := 0, zpend := false, fsm := if s.blk.srcLen = 0 then .complete else .decCode
        duties := { cmd := .decode, s := s.blk.srcAddr, l := s.blk.srcLen, d := s.blk.dstAddr } :: s.blk.duties } ∧
      t.blk.statusWord = 0x00000001#32 ∧ t.mem = s.mem ∧ s.sameAround t ∧
      t.faults = (if s.acceptRace { cmd := .decode, s := s.blk.srcAddr, l := s.blk.srcLen, d := s.blk.dstAddr } then
        { s.faults with hostRace := true } else s.faults)

/-- R85: a command written while BUSY records HostProtocol and leaves every register and the Engine unchanged. -/
def Obligations.CommandWhileBusyOnlyRecordsTheFault : Prop :=
  ∀ (s : State) (w : Word), s.blk.fsm ≠ .idle →
    exec .encode s = .next { s with faults := { s.faults with hostProtocol := true } } ∧
    exec .decode s = .next { s with faults := { s.faults with hostProtocol := true } } ∧
    exec (.wrCmd w) s = .next { s with faults := { s.faults with hostProtocol := true } }

/-- The frame of all eleven instructions. None touches memory, another instance, the Host's program, the schedule or a
parameter. Only a command write changes STATUS, RESULT_LEN or an Engine register; only its own write changes SRC_ADDR,
SRC_LEN or DST_ADDR. And every one of them completes, in every state. -/
def Obligations.EveryInstructionCompletesInsideItsFrame : Prop :=
  ∀ (i : Instr) (s : State), ∃ t, exec i s = .next t ∧
    t.mem = s.mem ∧ t.peers = s.peers ∧ t.hostQueue = s.hostQueue ∧ t.sched = s.sched ∧ t.platform = s.platform ∧
    t.blk.port = s.blk.port ∧
    (t.blk.srcAddr ≠ s.blk.srcAddr → ∃ x, i = .wrSrcAddr x) ∧ (t.blk.srcLen ≠ s.blk.srcLen → ∃ x, i = .wrSrcLen x) ∧
    (t.blk.dstAddr ≠ s.blk.dstAddr → ∃ x, i = .wrDstAddr x) ∧
    (i ≠ .encode → i ≠ .decode → (∀ w, i ≠ .wrCmd w) →
      t.faults = s.faults ∧ t.blk.done = s.blk.done ∧ t.blk.err = s.blk.err ∧ t.blk.errcode = s.blk.errcode ∧
      t.blk.resultLen = s.blk.resultLen ∧ t.blk.fsm = s.blk.fsm ∧ t.blk.S = s.blk.S ∧ t.blk.L = s.blk.L ∧
      t.blk.D = s.blk.D ∧ t.blk.i = s.blk.i ∧ t.blk.cur = s.blk.cur ∧ t.blk.codep = s.blk.codep ∧
      t.blk.code = s.blk.code ∧ t.blk.byte = s.blk.byte ∧ t.blk.block = s.blk.block ∧ t.blk.zpend = s.blk.zpend ∧
      t.blk.v = s.blk.v)

/-! The Engine's steps. `s.noteEngine` is the record of a race with another instance's open buffer duty (R63). -/

/-- R98: ENC_READ. -/
def Obligations.EncReadTakesTheNextSourceByte : Prop :=
  ∀ s : State, s.inv → s.blk.fsm = .encRead → ∀ a, a = s.blk.S.toNat + s.blk.i.toNat →
    memAdmit s.blk.port.denied .read a = true →
    ∃ t, engineStep s = .next t ∧
      t.blk = { s.blk with
        byte := s.mem.readByte a, i := s.blk.i + 1, fsm := if s.mem.readByte a ≠ 0 then .encLit else .encFinZero } ∧
      s.blk.i.toNat < s.blk.L.toNat ∧ (s.blk.i + 1).toNat = s.blk.i.toNat + 1 ∧
      t.mem = s.mem ∧ s.sameAround t ∧ t.faults = (s.noteEngine .read a).faults

/-- R99: ENC_LIT; `code` is at most 254 before and at most 255 after. -/
def Obligations.EncLitCopiesTheLiteral : Prop :=
  ∀ s : State, s.inv → s.blk.fsm = .encLit → ∀ a, a = s.blk.D.toNat + s.blk.cur.toNat →
    memAdmit s.blk.port.denied .write a = true →
    ∃ t, engineStep s = .next t ∧
      t.blk = { s.blk with
        cur := s.blk.cur + 1, code := s.blk.code + 1
        fsm := if s.blk.code + 1 = 255 then .encFinFull
          else if s.blk.i.toNat < s.blk.L.toNat then .encRead else .encFinal } ∧
      s.blk.byte ≠ 0 ∧ s.blk.code.toNat ≤ 254 ∧ t.blk.code.toNat = s.blk.code.toNat + 1 ∧
      t.blk.cur.toNat = s.blk.cur.toNat + 1 ∧
      s.mem.storesOnly t.mem a s.blk.byte ∧ s.sameAround t ∧ t.faults = (s.noteEngine .write a).faults

/-- R100: ENC_FIN_ZERO writes the code at the code pointer and reserves the next slot. -/
def Obligations.EncFinZeroClosesTheBlock : Prop :=
  ∀ s : State, s.inv → s.blk.fsm = .encFinZero → ∀ a, a = s.blk.D.toNat + s.blk.codep.toNat →
    memAdmit s.blk.port.denied .write a = true →
    ∃ t, engineStep s = .next t ∧
      t.blk = { s.blk with
        code := 1, codep := s.blk.cur, cur := s.blk.cur + 1
        fsm := if s.blk.i.toNat < s.blk.L.toNat then .encRead else .encFinal } ∧
      1 ≤ s.blk.code.toNat ∧ s.blk.code.toNat ≤ 254 ∧ t.blk.cur.toNat = s.blk.cur.toNat + 1 ∧
      s.mem.storesOnly t.mem a s.blk.code ∧ s.sameAround t ∧ t.faults = (s.noteEngine .write a).faults

/-- R101: ENC_FIN_FULL writes 255 at the code pointer and reserves the next slot only if input remains. -/
def Obligations.EncFinFullReservesOnlyIfInputRemains : Prop :=
  ∀ s : State, s.inv → s.blk.fsm = .encFinFull → ∀ a, a = s.blk.D.toNat + s.blk.codep.toNat →
    memAdmit s.blk.port.denied .write a = true →
    ∃ t, engineStep s = .next t ∧ s.blk.code = 255 ∧
      (s.blk.i.toNat < s.blk.L.toNat →
        t.blk = { s.blk with code := 1, codep := s.blk.cur, cur := s.blk.cur + 1, fsm := .encRead } ∧
        t.blk.cur.toNat = s.blk.cur.toNat + 1) ∧
      (s.blk.i.toNat = s.blk.L.toNat → t.blk = { s.blk with code := 1, codep := s.blk.cur, fsm := .encFinal }) ∧
      s.blk.i.toNat ≤ s.blk.L.toNat ∧
      s.mem.storesOnly t.mem a 255 ∧ s.sameAround t ∧ t.faults = (s.noteEngine .write a).faults

/-- R102: ENC_FINAL writes the closing code at the code pointer, also where that is the cursor's cell. -/
def Obligations.EncFinalWritesTheClosingCode : Prop :=
  ∀ s : State, s.inv → s.blk.fsm = .encFinal → ∀ a, a = s.blk.D.toNat + s.blk.codep.toNat →
    memAdmit s.blk.port.denied .write a = true →
    ∃ t, engineStep s = .next t ∧ t.blk = { s.blk with fsm := .encDelim } ∧
      1 ≤ s.blk.code.toNat ∧ s.blk.code.toNat ≤ 254 ∧ s.blk.codep.toNat ≤ s.blk.cur.toNat ∧
      s.mem.storesOnly t.mem a s.blk.code ∧ s.sameAround t ∧ t.faults = (s.noteEngine .write a).faults

/-- R103: ENC_DELIM writes 00 at the cursor. -/
def Obligations.EncDelimAppendsTheDelimiter : Prop :=
  ∀ s : State, s.inv → s.blk.fsm = .encDelim → ∀ a, a = s.blk.D.toNat + s.blk.cur.toNat →
    memAdmit s.blk.port.denied .write a = true →
    ∃ t, engineStep s = .next t ∧ t.blk = { s.blk with cur := s.blk.cur + 1, fsm := .complete } ∧
      t.blk.cur.toNat = s.blk.cur.toNat + 1 ∧
      s.mem.storesOnly t.mem a 0 ∧ s.sameAround t ∧ t.faults = (s.noteEngine .write a).faults

/-- R86, R87: COMPLETE sets RESULT_LEN to the cursor and STATUS to 0x00000002, makes no memory access, and the Engine is
idle. -/
def Obligations.CompleteReportsTheCursor : Prop :=
  ∀ s : State, s.blk.fsm = .complete →
    ∃ t, engineStep s = .next t ∧
      t = { s with blk := { s.blk with
        resultLen := s.blk.cur, done := true, err := false, errcode := 0, fsm := .idle } } ∧
      t.blk.statusWord = 0x00000002#32 ∧ t.blk.busy = false

/-- R118: DEC_CODE on a code byte c: stop on 0; else c − 1 literals follow, and the zero of the previous block is
written first if it is owed. -/
def Obligations.DecCodeReadsACodeByte : Prop :=
  ∀ s : State, s.inv → s.blk.fsm = .decCode → ∀ a c, a = s.blk.S.toNat + s.blk.i.toNat → c = s.mem.readByte a →
    memAdmit s.blk.port.denied .read a = true →
    ∃ t, engineStep s = .next t ∧
      (c = 0 → t.blk = { s.blk with i := s.blk.i + 1, fsm := .complete }) ∧
      (c ≠ 0 → t.blk = { s.blk with
        i := s.blk.i + 1, block := c - 1, zpend := decide (c ≠ 255)
        fsm := if s.blk.zpend then .decZero
          else if s.blk.i.toNat + 1 < s.blk.L.toNat then (if c = 1 then .decCode else .decRead) else .complete }) ∧
      (s.blk.i + 1).toNat = s.blk.i.toNat + 1 ∧ t.blk.block.toNat ≤ 254 ∧
      t.mem = s.mem ∧ s.sameAround t ∧ t.faults = (s.noteEngine .read a).faults

/-- R119: DEC_ZERO writes the implied zero of the previous block. -/
def Obligations.DecZeroWritesTheImpliedZero : Prop :=
  ∀ s : State, s.inv → s.blk.fsm = .decZero → ∀ a, a = s.blk.D.toNat + s.blk.cur.toNat →
    memAdmit s.blk.port.denied .write a = true →
    ∃ t, engineStep s = .next t ∧
      t.blk = { s.blk with
        cur := s.blk.cur + 1
        fsm := if s.blk.i.toNat < s.blk.L.toNat then (if s.blk.block = 0 then .decCode else .decRead)
          else .complete } ∧
      t.blk.cur.toNat = s.blk.cur.toNat + 1 ∧
      s.mem.storesOnly t.mem a 0 ∧ s.sameAround t ∧ t.faults = (s.noteEngine .write a).faults

/-- R120: DEC_READ reads the next literal. -/
def Obligations.DecReadTakesTheNextLiteral : Prop :=
  ∀ s : State, s.inv → s.blk.fsm = .decRead → ∀ a, a = s.blk.S.toNat + s.blk.i.toNat →
    memAdmit s.blk.port.denied .read a = true →
    ∃ t, engineStep s = .next t ∧
      t.blk = { s.blk with v := s.mem.readByte a, i := s.blk.i + 1, fsm := .decWrite } ∧
      s.blk.i.toNat < s.blk.L.toNat ∧ 0 < s.blk.block.toNat ∧ (s.blk.i + 1).toNat = s.blk.i.toNat + 1 ∧
      t.mem = s.mem ∧ s.sameAround t ∧ t.faults = (s.noteEngine .read a).faults

/-- R121: DEC_WRITE copies the literal, whatever its value. -/
def Obligations.DecWriteCopiesTheLiteral : Prop :=
  ∀ s : State, s.inv → s.blk.fsm = .decWrite → ∀ a, a = s.blk.D.toNat + s.blk.cur.toNat →
    memAdmit s.blk.port.denied .write a = true →
    ∃ t, engineStep s = .next t ∧
      t.blk = { s.blk with
        cur := s.blk.cur + 1, block := s.blk.block - 1
        fsm := if s.blk.i.toNat < s.blk.L.toNat then (if s.blk.block = 1 then .decCode else .decRead)
          else .complete } ∧
      t.blk.cur.toNat = s.blk.cur.toNat + 1 ∧ t.blk.block.toNat + 1 = s.blk.block.toNat ∧
      s.mem.storesOnly t.mem a s.blk.v ∧ s.sameAround t ∧ t.faults = (s.noteEngine .write a).faults

/-- R52, R75: an Engine that is not enabled (idle, or its request not admitted) has no step: nothing changes, BUSY
included. -/
def Obligations.DisabledEngineChangesNothing : Prop :=
  ∀ s : State, s.inv → s.blk.enabled = false → engineStep s = .next s

/-- From a state that meets the invariant an Engine step never stops: the `require` of MemRead and MemWrite holds and every
register value fits (R52, R8, R29). -/
def Obligations.EngineStepNeverStops : Prop := ∀ s : State, s.inv → ∃ t, engineStep s = .next t

/-- R53: the Engine reads only S + i with i < L, and a read that is made moves i on by one, so no source byte is read twice
or out of order; no other step changes i. -/
def Obligations.EngineReadsEachSourceByteInOrder : Prop :=
  ∀ s t : State, s.inv → engineStep s = .next t →
    (∀ a, s.blk.request = some (.read, a) →
      a = s.blk.S.toNat + s.blk.i.toNat ∧ s.blk.i.toNat < s.blk.L.toNat ∧
      (memAdmit s.blk.port.denied .read a = true → t.blk.i.toNat = s.blk.i.toNat + 1)) ∧
    ((∀ a, s.blk.request ≠ some (.read, a)) → t.blk.i = s.blk.i)

/-- R54: the Engine writes only inside DST_REGION of its operation and never into SRC_REGION. -/
def Obligations.EngineWritesOnlyItsDestination : Prop :=
  ∀ s t : State, s.inv → engineStep s = .next t → s.blk.busy = true →
    ∃ u r, s.blk.duties = u :: r ∧ u.s = s.blk.S ∧ u.l = s.blk.L ∧ u.d = s.blk.D ∧
      ∀ c, t.mem.readByte c ≠ s.mem.readByte c →
        u.dst.1 ≤ c ∧ c < u.dst.2 ∧ (c < u.src.1 ∨ u.src.2 ≤ c) ∧ s.blk.request = some (.write, c)

/-- R64, R153: an idle Engine makes no memory access and takes no step. -/
def Obligations.IdleEngineTakesNoStep : Prop :=
  ∀ s : State, s.blk.fsm = .idle → engineStep s = .next s ∧ s.blk.request = none

/-! Reset, schedule, Host actions. -/

/-- R34, R158, R21: right after reset every host-visible register is 0, the Engine is idle and no fault is recorded (that
the flags start unset is the model's reading of R147). -/
def Obligations.ResetLeavesHostVisibleRegistersZero : Prop :=
  State.reset.blk.statusWord = 0 ∧ State.reset.blk.srcAddr = 0 ∧ State.reset.blk.srcLen = 0 ∧
  State.reset.blk.dstAddr = 0 ∧ State.reset.blk.resultLen = 0 ∧ State.reset.blk.fsm = .idle ∧
  State.reset.faults = { hostProtocol := false, hostRace := false }

/-- R34, Y2: a command written straight after reset is rejected: ENCODE and DECODE with NULL_BUFFER, any other word with
ILLEGAL_CMD. -/
def Obligations.CommandAfterResetIsRejected : Prop :=
  (∃ t, exec .encode State.reset = .next t ∧ t.blk.statusWord = 0x00000026#32 ∧ t.blk.fsm = .idle) ∧
  (∃ t, exec .decode State.reset = .next t ∧ t.blk.statusWord = 0x00000026#32 ∧ t.blk.fsm = .idle) ∧
  ∀ w : Word, w ≠ 0x00000001#32 → w ≠ 0x00000002#32 →
    ∃ t, exec (.wrCmd w) State.reset = .next t ∧ t.blk.statusWord = 0x00000016#32 ∧ t.blk.fsm = .idle

/-- R155, R157: the reset event of any instance (0 is the one in focus), in any state and also during an operation: its
host-visible registers become 0 and its Engine idle in one step, and memory, the fault flags and the other instances are
unchanged. The model's own choices are that the internal registers are these free values, the next draw's (log 3), and that
the open duties last on (log 12). -/
def Obligations.ResetEventClearsRegistersAndKeepsMemoryAndFaults : Prop :=
  ∀ (s : State) (k : Nat) (b : Block) (ts : List Turn), s.sched = .reset k :: ts → (s.blk :: s.peers)[k]? = some b →
    ∃ (t : State) (r : Block), step s = .next t ∧ t.blk :: t.peers = (s.blk :: s.peers).set k r ∧
      r.statusWord = 0 ∧ r.srcAddr = 0 ∧ r.srcLen = 0 ∧ r.dstAddr = 0 ∧ r.resultLen = 0 ∧ r.fsm = .idle ∧
      r.port = b.port ∧ r.duties = b.duties ∧
      r.S = Config.resetWord s.draws 0 ∧ r.L = Config.resetWord s.draws 1 ∧
      r.D = Config.resetWord s.draws 2 ∧ r.i = Config.resetWord s.draws 3 ∧
      r.cur = Config.resetWord s.draws 4 ∧ r.codep = Config.resetWord s.draws 5 ∧
      r.code = Config.resetByte s.draws 0 ∧ r.byte = Config.resetByte s.draws 1 ∧
      r.block = Config.resetByte s.draws 2 ∧ r.zpend = Config.resetBit s.draws ∧
      r.v = Config.resetByte s.draws 3 ∧ t.draws = s.draws + 1 ∧
      t.mem = s.mem ∧ t.faults = s.faults ∧ t.hostQueue = s.hostQueue ∧ t.reads = s.reads ∧
      t.sched = ts ∧ t.platform = s.platform

/-- The reset state meets the invariant (with the values log 2 chooses for the internal registers). -/
def Obligations.ResetStateMeetsTheInvariant : Prop := State.reset.inv

/-- Every step keeps the invariant: STATUS and RESULT_LEN stay legal (R23, R27), the Engine's registers stay in their ranges
(R29), the latched operands have passed the check (R83), for every instance, and memory keeps its canonical form. -/
def Obligations.StepKeepsTheInvariant : Prop := ∀ s t : State, s.inv → step s = .next t → t.inv

/-- R147: no step clears a recorded model fault, reset included. -/
def Obligations.RecordedModelFaultsAreNeverCleared : Prop :=
  ∀ s t : State, step s = .next t →
    (s.faults.hostProtocol = true → t.faults.hostProtocol = true) ∧ (s.faults.hostRace = true → t.faults.hostRace = true)

/-- No step changes an open parameter: each instance's COBS_BASE and MEM_ADMIT, the number of instances, the platform's
(R6; log 1). -/
def Obligations.StepKeepsTheOpenParameters : Prop :=
  ∀ s t : State, step s = .next t →
    t.platform = s.platform ∧ t.blk.port = s.blk.port ∧ t.peers.map Block.port = s.peers.map Block.port

/-- R151, R75, R155: a listed Engine turn (reset) of another instance IS the Engine step (reset) with that instance in
focus, which is then put back; it changes that instance's registers alone, not those of this instance nor of any third
one. A turn of an instance that is not there is taken off the list and does nothing (log 28). -/
def Obligations.InstancesKeepTheirOwnRegisters : Prop :=
  ∀ (s : State) (j : Nat) (ts : List Turn),
    (∀ b, s.peers[j]? = some b →
      (s.sched = .engine (j + 1) :: ts →
        step s = andThen (engineStep (State.swap { s with sched := ts } j b)) fun t => .next (t.unswap j)) ∧
      (s.sched = .reset (j + 1) :: ts →
        step s = andThen (resetStep (State.swap { s with sched := ts } j b)) fun t => .next (t.unswap j))) ∧
    (s.sched = .engine (j + 1) :: ts ∨ s.sched = .reset (j + 1) :: ts →
      (s.peers[j]? = none → step s = .next { s with sched := ts }) ∧
      ∀ t, step s = .next t → t.blk = s.blk ∧ ∀ k, k ≠ j → t.peers[k]? = s.peers[k]?)

/-- R75 and R167 as the model's schedule renders them (log 7). A listed Engine turn of the instance in focus is its Engine
step. With no turn listed, the enabled Engine of the instance in focus takes its step; else the first enabled Engine among
the others, in focus and then put back; and if no Engine is enabled, the Host has the turn. -/
def Obligations.EnabledEngineMovesWhenNoTurnIsListed : Prop :=
  ∀ s : State,
    (∀ ts, s.sched = .engine 0 :: ts → step s = engineStep { s with sched := ts }) ∧
    (s.sched = [] → s.blk.enabled = true → step s = engineStep s) ∧
    (∀ (j : Nat) (b : Block), s.sched = [] → s.blk.enabled = false → s.peers[j]? = some b → b.enabled = true →
      (∀ (k : Nat) (p : Block), k < j → s.peers[k]? = some p → p.enabled = false) →
      step s = andThen (engineStep (s.swap j b)) fun t => .next (t.unswap j)) ∧
    (s.sched = [] → (∀ b ∈ s.blk :: s.peers, b.enabled = false) → step s = step { s with sched := [.host] })

/-- R167, R169, R71: with no turn listed, one instance and every request admitted, a busy Engine becomes idle within
2L + ceil_div(L, 254) + 3 steps, from any state that meets the invariant. -/
def Obligations.BusyEngineBecomesIdleWithinTheStepBound : Prop :=
  ∀ s : State, s.inv → s.sched = [] → s.peers = [] → s.blk.busy = true →
    (∀ kind a, memAdmit s.blk.port.denied kind a = true) →
    ∃ n t, n ≤ 2 * s.blk.L.toNat + (s.blk.L.toNat + 253) / 254 + 3 ∧ core.run n s = .next t ∧ t.blk.busy = false ∧
      t.blk.statusWord = 0x00000002#32

/-- With no turn listed, no Host action left and every Engine idle, nothing happens (R87, R153). -/
def Obligations.FinishedRunStaysAsItIs : Prop := ∀ s : State, s.over → s.sched = [] → step s = .next s

/-- R70, `POLL`: the Host reads STATUS; while BUSY = 1 the action stays in its program, else it is done
(log 23; the duty record it empties is log 10's). -/
def Obligations.PollRepeatsWhileBusy : Prop :=
  ∀ (s : State) (q : List HostAction) (ts : List Turn), s.hostQueue = .poll 0 :: q → s.sched = .host :: ts →
    ∃ t, step s = .next t ∧ t.reads = .reg s.blk.statusWord :: s.reads ∧ t.mem = s.mem ∧ t.sched = ts ∧
      (s.blk.fsm ≠ .idle → t.hostQueue = .poll 0 :: q ∧ t.blk = s.blk) ∧
      (s.blk.fsm = .idle → t.hostQueue = q ∧ t.blk = { s.blk with duties := [] })

/-- R55, R47: a Host store of bytes at `a`, admitted and inside memory, in a memory map of its own or outside every window of
a shared one, stores them at a, a + 1, … and leaves every other byte and every block alone; a Host load returns the bytes there. HostRace is recorded exactly if
the access breaks an open duty (R63 clauses 1 and 2; log 9: the access has its effect all the same; one step for every width: log 21). -/
def Obligations.HostMemoryAccessesActOnTheirBytes : Prop :=
  ∀ (s : State) (ts : List Turn) (q : List HostAction), s.mem.wf = true → s.sched = .host :: ts →
    (∀ (a : Nat) (d : List Byte), s.hostQueue = .mem (.wr a d) :: q → a + d.length ≤ 2 ^ 32 →
      (s.platform.sharedMap = true → s.windowOf (a, a + d.length) = none) →
      memAdmitAll s.platform.hostDenied .write a d.length = true →
      ∃ t, step s = .next t ∧ t.mem.readBytes a d.length = d ∧
        (∀ c, c < a ∨ a + d.length ≤ c → t.mem.readByte c = s.mem.readByte c) ∧
        t.blk = s.blk ∧ t.peers = s.peers ∧ t.reads = s.reads ∧ t.hostQueue = q ∧ t.sched = ts ∧
        t.faults.hostProtocol = s.faults.hostProtocol ∧
        t.faults.hostRace = (s.faults.hostRace || breaksDuty (s.blk :: s.peers) .write (a, a + d.length))) ∧
    (∀ a n : Nat, s.hostQueue = .mem (.rd a n) :: q → a + n ≤ 2 ^ 32 →
      (s.platform.sharedMap = true → s.windowOf (a, a + n) = none) →
      memAdmitAll s.platform.hostDenied .read a n = true →
      ∃ t, step s = .next t ∧ t.reads = .mem (s.mem.readBytes a n) :: s.reads ∧ t.mem = s.mem ∧
        t.blk = s.blk ∧ t.peers = s.peers ∧ t.hostQueue = q ∧ t.sched = ts ∧
        t.faults.hostProtocol = s.faults.hostProtocol ∧
        t.faults.hostRace = (s.faults.hostRace || breaksDuty (s.blk :: s.peers) .read (a, a + n)))

/-- R63 clauses 1 and 2, R162. From the accept until the Host reads STATUS with BUSY = 0, a Host store that touches a byte of
the source or destination region of an operation of any instance, or a Host load that touches one of its destination,
records HostRace: first said of every duty still open, whether its operation runs, has ended or was ended by a reset
(logs 10, 12), then of the operation in progress and its latched operands. In a shared map the byte is a memory cell, in no
window, and the access may touch a window beside it, as a register access too (log 16). -/
def Obligations.HostTouchingBusyBuffersRecordsHostRace : Prop :=
  (∀ (s t : State) (ts : List Turn) (q : List HostAction) (x : Bus) (b : Block) (u : Duty) (c : Nat),
    b ∈ s.blk :: s.peers → u ∈ b.duties → s.sched = .host :: ts →
    s.hostQueue = .mem x :: q ∨ (s.platform.sharedMap = true ∧ s.hostQueue = .reg x :: q) →
    (s.platform.sharedMap = true → s.windowOf (c, c + 1) = none) → step s = .next t → t.hostQueue = q →
    x.addr ≤ c → c < x.addr + x.width →
    ((u.d.toNat ≤ c ∧ c < u.d.toNat + capOf u.cmd u.l.toNat) ∨
      (x.isWrite = true ∧ u.s.toNat ≤ c ∧ c < u.s.toNat + u.l.toNat)) →
    t.faults.hostRace = true) ∧
  (∀ (s t : State) (ts : List Turn) (q : List HostAction) (x : Bus) (u : Duty) (r : List Duty) (c : Nat),
    s.inv → s.blk.busy = true → s.blk.duties = u :: r → s.sched = .host :: ts →
    s.hostQueue = .mem x :: q ∨ (s.platform.sharedMap = true ∧ s.hostQueue = .reg x :: q) →
    (s.platform.sharedMap = true → s.windowOf (c, c + 1) = none) → step s = .next t → t.hostQueue = q →
    x.addr ≤ c → c < x.addr + x.width →
    ((s.blk.D.toNat ≤ c ∧ c < s.blk.D.toNat + capOf u.cmd s.blk.L.toNat) ∨
      (x.isWrite = true ∧ s.blk.S.toNat ≤ c ∧ c < s.blk.S.toNat + s.blk.L.toNat)) →
    t.faults.hostRace = true)

/-- R63 clause 4: an accepted command whose destination overlaps the source or destination of another busy instance, or
whose source overlaps its destination, records HostRace (at the accept: log 11). -/
def Obligations.AcceptClashingWithBusyPeerRecordsHostRace : Prop :=
  ∀ (s : State) (p : Block) (u : Duty) (r : List Duty) (cmd : Command) (c : Nat),
    s.blk.fsm = .idle → cmd = .encode ∨ cmd = .decode →
    check cmd s.blk.srcAddr s.blk.srcLen s.blk.dstAddr = .none →
    p ∈ s.peers → p.busy = true → p.duties = u :: r →
    (s.blk.dstAddr.toNat ≤ c ∧ c < s.blk.dstAddr.toNat + capOf cmd s.blk.srcLen.toNat ∧
      ((u.src.1 ≤ c ∧ c < u.src.2) ∨ (u.dst.1 ≤ c ∧ c < u.dst.2))) ∨
      (s.blk.srcAddr.toNat ≤ c ∧ c < s.blk.srcAddr.toNat + s.blk.srcLen.toNat ∧ u.dst.1 ≤ c ∧ c < u.dst.2) →
    ∃ t, exec (if cmd = .encode then .encode else .decode) s = .next t ∧ t.faults.hostRace = true ∧ t.blk.busy = true

/-- R48, with log 16: where memory and registers share one address map, a Host store of four bytes at an aligned register
of the window in focus is the register write of the little-endian word. -/
def Obligations.SharedMapStoreIsTheLittleEndianRegisterWrite : Prop :=
  ∀ (s : State) (ts : List Turn) (q : List HostAction) (x : Word), s.platform.sharedMap = true → s.sched = .host :: ts →
    s.hostQueue = .mem (.wr (s.blk.port.base + 0x0C)
      [x.extractLsb' 0 8, x.extractLsb' 8 8, x.extractLsb' 16 8, x.extractLsb' 24 8]) :: q →
    step s = .next { s with blk := { s.blk with srcLen := x }, hostQueue := q, sched := ts }

/-! The transforms. -/

/-- R95, R104, R109, R110: an accepted ENCODE whose requests are admitted ends, after exactly 2L + G(b) + 3 Engine steps
and not before, with STATUS = 2, RESULT_LEN = n and encode_fn(b) at the destination; every byte outside the n bytes written
is unchanged. -/
def Obligations.EncodeWritesEncodeFnOfTheSource : Prop :=
  ∀ (s : State) (b : List Byte), s.inv → s.blk.fsm = .idle →
    check .encode s.blk.srcAddr s.blk.srcLen s.blk.dstAddr = .none →
    s.blk.admits .read (srcRegion s.blk.srcAddr s.blk.srcLen) →
    s.blk.admits .write (dstRegion .encode s.blk.srcLen s.blk.dstAddr) →
    b = s.mem.readBytes s.blk.srcAddr.toNat s.blk.srcLen.toNat →
    ∃ t u, exec .encode s = .next t ∧ engineRun (encodeSteps b) t = .next u ∧ u.blk.fsm = .idle ∧
      u.blk.statusWord = 0x00000002#32 ∧ u.blk.resultLen.toNat = (encodeFn b).length ∧
      u.mem.readBytes s.blk.dstAddr.toNat (encodeFn b).length = encodeFn b ∧
      (∀ c, c < s.blk.dstAddr.toNat ∨ s.blk.dstAddr.toNat + (encodeFn b).length ≤ c →
        u.mem.readByte c = s.mem.readByte c) ∧
      u.blk.srcAddr = s.blk.srcAddr ∧ u.blk.srcLen = s.blk.srcLen ∧ u.blk.dstAddr = s.blk.dstAddr ∧
      (∀ n, n < encodeSteps b → ∃ w, engineRun n t = .next w ∧ w.blk.busy = true)

/-- R115, R122, R129, R130: the same of DECODE, for every input, conformant or not (R126, D19). -/
def Obligations.DecodeWritesDecodeFnOfTheSource : Prop :=
  ∀ (s : State) (e : List Byte), s.inv → s.blk.fsm = .idle →
    check .decode s.blk.srcAddr s.blk.srcLen s.blk.dstAddr = .none →
    s.blk.admits .read (srcRegion s.blk.srcAddr s.blk.srcLen) →
    s.blk.admits .write (dstRegion .decode s.blk.srcLen s.blk.dstAddr) →
    e = s.mem.readBytes s.blk.srcAddr.toNat s.blk.srcLen.toNat →
    ∃ t u, exec .decode s = .next t ∧ engineRun (decodeSteps e) t = .next u ∧ u.blk.fsm = .idle ∧
      u.blk.statusWord = 0x00000002#32 ∧ u.blk.resultLen.toNat = (decodeFn e).length ∧
      u.mem.readBytes s.blk.dstAddr.toNat (decodeFn e).length = decodeFn e ∧
      (∀ c, c < s.blk.dstAddr.toNat ∨ s.blk.dstAddr.toNat + (decodeFn e).length ≤ c →
        u.mem.readByte c = s.mem.readByte c) ∧
      u.blk.srcAddr = s.blk.srcAddr ∧ u.blk.srcLen = s.blk.srcLen ∧ u.blk.dstAddr = s.blk.dstAddr ∧
      (∀ n, n < decodeSteps e → ∃ w, engineRun n t = .next w ∧ w.blk.busy = true)

/-- R127: decode_fn gives the buffer back from its encoding, from the encoding without its final 00, and from the encoding
followed by any bytes; and from the alternative encoding of 254 non-zero bytes that ENCODE never writes. -/
def Obligations.DecodingAnEncodingGivesTheBufferBack : Prop :=
  (∀ b rest : List Byte,
    decodeFn (encodeFn b) = b ∧ decodeFn (encodeFn b).dropLast = b ∧ decodeFn (encodeFn b ++ rest) = b) ∧
  ∀ b : List Byte, b.length = 254 → (∀ x ∈ b, x ≠ 0) →
    decodeFn (255 :: b ++ [1, 0]) = b ∧ encodeFn b ≠ 255 :: b ++ [1, 0]

/-- R105: every output byte except the last is non-zero, and the last is 0x00. -/
def Obligations.EncodingHasItsOnlyZeroAtTheEnd : Prop :=
  ∀ b : List Byte, ∃ pre, encodeFn b = pre ++ [0x00#8] ∧ ∀ x ∈ pre, x ≠ 0

/-- R106: the output length and its bounds; the bound on F(b) is met by an all-non-zero input. -/
def Obligations.EncodingLengthMeetsItsBounds : Prop :=
  ∀ b : List Byte,
    (encodeFn b).length = b.length + fullBlocksMore b + 2 ∧
    fullBlocksMore b ≤ (b.length - 1) / 254 ∧ (b = [] → fullBlocksMore b = 0) ∧
    ((∀ x ∈ b, x ≠ 0) → fullBlocksMore b = (b.length - 1) / 254) ∧
    b.length < (encodeFn b).length ∧ (encodeFn b).length ≤ nmax b.length ∧
    nmax b.length ≤ b.length + b.length / 254 + 2 ∧ b.length + b.length / 254 + 2 ≤ capEnc b.length

/-- R107: the source's edge cases: empty input, a run of k zeros at a block start, a run of exactly 254 non-zero bytes
with more input following and at the end of the input. -/
def Obligations.EncodingEdgeCases : Prop :=
  encodeFn [] = [0x01, 0x00] ∧
  (∀ (k : Nat) (b : List Byte), encodeFn (List.replicate k 0 ++ b) = List.replicate k 1 ++ encodeFn b) ∧
  ∀ r : List Byte, r.length = 254 → (∀ x ∈ r, x ≠ 0) →
    encodeFn r = 255 :: r ++ [0x00] ∧ ∀ (x : Byte) (b : List Byte), encodeFn (r ++ x :: b) = 255 :: r ++ encodeFn (x :: b)

/-- R124, R125, R126: decode_fn's bounds, its stop at a zero code byte, its copy of a block cut short by the end of the
input, and a zero in a literal position copied as data. -/
def Obligations.DecodingStopsAndBounds : Prop :=
  (∀ e : List Byte, decReads e 0 ≤ e.length ∧ (decodeFn e).length ≤ e.length - 1) ∧
  decodeFn [] = [] ∧ (∀ e : List Byte, decodeFn (0 :: e) = []) ∧
  (∀ (c : Byte) (lits : List Byte), lits.length < c.toNat → decodeFn (c :: lits) = lits) ∧
  (∀ (c : Byte) (lits e : List Byte), lits.length + 1 = c.toNat → decodeFn (c :: lits ++ 0 :: e) = lits)

/-- R169: the step counts are linear in the source length. -/
def Obligations.StepCountsAreLinear : Prop :=
  (∀ b : List Byte, encodeSteps b ≤ 2 * b.length + (b.length + 253) / 254 + 3) ∧
  ∀ e : List Byte, decodeSteps e ≤ 2 * e.length + 1

/-- R33, R2: the course of an operation does not depend on what the Engine's registers held before: two states that differ
only there take, from the accept of the same command on, Engine steps with the same memory, the same Engine state, the same
STATUS and the same RESULT_LEN. -/
def Obligations.OperationIgnoresOldEngineRegisters : Prop :=
  ∀ (s s' t t' u u' : State) (b : Block) (i : Instr) (n : Nat),
    i = .encode ∨ i = .decode → s.inv → s.blk.fsm = .idle → b.inv →
    b = { s.blk with
      S := b.S, L := b.L, D := b.D, i := b.i, cur := b.cur, codep := b.codep, code := b.code, byte := b.byte
      block := b.block, zpend := b.zpend, v := b.v } →
    s' = { s with blk := b } → exec i s = .next t → exec i s' = .next t' →
    engineRun n t = .next u → engineRun n t' = .next u' →
    u'.mem = u.mem ∧ u'.blk.fsm = u.blk.fsm ∧ u'.blk.statusWord = u.blk.statusWord ∧
      u'.blk.resultLen = u.blk.resultLen ∧ u'.faults = u.faults
end

