-- ==== Sys2Proof/Laws/Decode.lean ====
section
/-! SUPPORT. Byte lanes, transaction keys and command words. -/

namespace Sys2Proof

/-- Splitting a word into its lanes and joining them gives it back (20_memory.md R48). -/
@[simp] theorem leWord_leBytes (x : Word) :
    leWord (x.extractLsb' 0 8) (x.extractLsb' 8 8) (x.extractLsb' 16 8) (x.extractLsb' 24 8) = x := by
  apply BitVec.eq_of_getLsbD_eq
  intro i hi
  simp only [leWord, BitVec.getLsbD_append, BitVec.getLsbD_extractLsb']
  by_cases h1 : i < 8
  · simp [h1]
  · by_cases h2 : i < 16
    · simp [h1, show i - 8 < 8 by omega, show 8 + (i - 8) = i by omega]
    · by_cases h3 : i < 24
      · simp [h1, show ¬ i - 8 < 8 by omega, show i - 8 - 8 < 8 by omega, show 16 + (i - 8 - 8) = i by omega]
      · simp [h1, show ¬ i - 8 < 8 by omega, show ¬ i - 8 - 8 < 8 by omega,
          show i - 8 - 8 - 8 < 8 by omega, show 24 + (i - 8 - 8 - 8) = i by omega]

@[simp] theorem length_leBytes (x : Word) : (leBytes x).length = 4 := rfl

/-- A 32-bit write carries the word it was made from. -/
@[simp] theorem data_wr_leBytes (a : Nat) (x : Word) : (Bus.wr a (leBytes x)).data = x := leWord_leBytes x

@[simp] theorem data_rd (a n : Nat) : (Bus.rd a n).data = 0 := rfl

/-- Every instruction's transaction is a whole word. -/
@[simp] theorem width_encode (base : Nat) (i : Instr) : (encode base i).width = 4 := by cases i <;> rfl

/-- `decode_cmd` on the two command words and on no other (30_encoding.md R69). -/
theorem decodeCmd_eq_encode_iff (w : Word) : decodeCmd w = .encode ↔ w = 0x00000001#32 := by
  unfold decodeCmd; split
  · simp [*]
  · split <;> simp [*]

theorem decodeCmd_eq_decode_iff (w : Word) : decodeCmd w = .decode ↔ w = 0x00000002#32 := by
  unfold decodeCmd; split
  · subst w; simp
  · split <;> simp [*]

theorem decodeCmd_eq_illegal_iff (w : Word) :
    decodeCmd w = .illegal ↔ w ≠ 0x00000001#32 ∧ w ≠ 0x00000002#32 := by
  unfold decodeCmd; split
  · simp [*]
  · split <;> simp [*]

/-- The key of an aligned word access inside the window (30_encoding.md R72). -/
theorem keyOf_of_aligned {base off : Nat} {x : Bus} (hw : x.width = 4) (ha : x.addr = base + off)
    (ho : off < Config.windowBytes) (h4 : off % 4 = 0) :
    keyOf base x = .ok (BitVec.ofNat 6 ((if x.isWrite then 32 else 0) + off)) := by
  have h1 : ¬ (x.addr < base ∨ base + Config.windowBytes ≤ x.addr) := by omega
  have h2 : x.addr - base = off := by omega
  simp [keyOf, hw, h2, h4, show ¬ (x.addr < base) by omega, show ¬ (base + Config.windowBytes ≤ x.addr) by omega]

/-- An access that decodes is a whole word inside the window. -/
theorem inside_of_decode {base : Nat} {x : Bus} {i : Instr} (h : decode base x = .ok i) :
    x.width = 4 ∧ base ≤ x.addr ∧ x.addr + x.width ≤ base + Config.windowBytes := by
  unfold decode keyOf at h
  by_cases h1 : x.width = 4
  · by_cases h2 : x.addr < base ∨ base + Config.windowBytes ≤ x.addr
    · simp [h1, h2] at h
    · by_cases h3 : (x.addr - base) % 4 = 0
      · simp only [Config.windowBytes] at *
        omega
      · simp only [ne_eq, h1, h2, h3, not_true_eq_false, not_false_eq_true, if_true, if_false] at h
        cases h
  · simp [h1] at h

end Sys2Proof
end

