-- ==== Sys2Proof/Laws/Memory.lean ====
section
/-! SUPPORT. The laws of memory: read after write, and that every write keeps the canonical form. -/

namespace Sys2Proof.Machine

theorem Memory.readByte_of_lt {lo : Nat} {m : Memory} {a : Nat} (h : m.wfFrom lo = true) (ha : a < lo) :
    m.readByte a = Memory.unlisted := by
  induction m generalizing lo with
  | nil => rfl
  | cons c m ih =>
    obtain ⟨k, x⟩ := c
    simp only [Memory.wfFrom, Bool.and_eq_true, decide_eq_true_eq] at h
    have hk : k ≠ a := by omega
    simpa [Memory.readByte, hk] using ih h.2 (by omega)

theorem Memory.wfFrom_mono {lo lo' : Nat} {m : Memory} (h : m.wfFrom lo = true) (hl : lo' ≤ lo) :
    m.wfFrom lo' = true := by
  cases m with
  | nil => rfl
  | cons c m =>
    obtain ⟨k, x⟩ := c
    simp only [Memory.wfFrom, Bool.and_eq_true, decide_eq_true_eq] at h ⊢
    exact ⟨⟨⟨by omega, h.1.1.2⟩, h.1.2⟩, h.2⟩

theorem Memory.wfFrom_consByte {lo a : Nat} {x : Byte} {m : Memory} (h : m.wfFrom (a + 1) = true) (hl : lo ≤ a)
    (ha : a < Config.memSize) : (Memory.consByte a x m).wfFrom lo = true := by
  unfold Memory.consByte
  split
  · exact Memory.wfFrom_mono h (by omega)
  · rename_i hx
    simp [Memory.wfFrom, h, hl, ha, hx]

theorem Memory.wfFrom_writeByte {lo a : Nat} {x : Byte} {m : Memory} (h : m.wfFrom lo = true) (hl : lo ≤ a)
    (ha : a < Config.memSize) : (m.writeByte a x).wfFrom lo = true := by
  induction m generalizing lo with
  | nil => exact Memory.wfFrom_consByte rfl hl ha
  | cons c m ih =>
    obtain ⟨k, y⟩ := c
    have h' := h
    simp only [Memory.wfFrom, Bool.and_eq_true, decide_eq_true_eq] at h'
    unfold Memory.writeByte
    split
    · refine Memory.wfFrom_consByte ?_ hl ha
      simp only [Memory.wfFrom, Bool.and_eq_true, decide_eq_true_eq]
      exact ⟨⟨⟨by omega, h'.1.1.2⟩, h'.1.2⟩, h'.2⟩
    · split
      · subst a
        exact Memory.wfFrom_consByte h'.2 hl ha
      · simp only [Memory.wfFrom, Bool.and_eq_true, decide_eq_true_eq]
        exact ⟨h'.1, ih h'.2 (by omega)⟩

/-- A write inside the memory keeps the canonical form. -/
theorem Memory.wf_writeByte {m : Memory} {a : Nat} {x : Byte} (h : m.wf = true) (ha : a < Config.memSize) :
    (m.writeByte a x).wf = true := Memory.wfFrom_writeByte h (Nat.zero_le a) ha

/-- A write of several bytes inside the memory keeps the canonical form. -/
theorem Memory.wf_writeBytes {m : Memory} {a : Nat} {xs : List Byte} (h : m.wf = true)
    (ha : a + xs.length ≤ Config.memSize) : (m.writeBytes a xs).wf = true := by
  induction xs generalizing m a with
  | nil => exact h
  | cons x xs ih =>
    simp only [List.length_cons] at ha
    exact ih (Memory.wf_writeByte h (by omega)) (by omega)

theorem Memory.readByte_consByte {lo a c : Nat} {x : Byte} {m : Memory} (h : m.wfFrom lo = true) (ha : a < lo) :
    (Memory.consByte a x m).readByte c = if c = a then x else m.readByte c := by
  unfold Memory.consByte
  split
  · split
    · rename_i hx hc
      rw [hc, Memory.readByte_of_lt h ha, hx]
    · rfl
  · by_cases hc : a = c
    · simp [Memory.readByte, hc]
    · have hc' : c ≠ a := fun e => hc e.symm
      simp [Memory.readByte, hc, hc']

theorem Memory.readByte_writeByte_from {lo a c : Nat} {x : Byte} {m : Memory} (h : m.wfFrom lo = true) :
    (m.writeByte a x).readByte c = if c = a then x else m.readByte c := by
  induction m generalizing lo with
  | nil => exact Memory.readByte_consByte (lo := a + 1) rfl (by omega)
  | cons e m ih =>
    obtain ⟨k, y⟩ := e
    have h' := h
    simp only [Memory.wfFrom, Bool.and_eq_true, decide_eq_true_eq] at h'
    unfold Memory.writeByte
    split
    · refine Memory.readByte_consByte (lo := k) ?_ (by omega)
      simp only [Memory.wfFrom, Bool.and_eq_true, decide_eq_true_eq]
      exact ⟨⟨⟨by omega, h'.1.1.2⟩, h'.1.2⟩, h'.2⟩
    · split
      · subst a
        rw [Memory.readByte_consByte h'.2 (by omega)]
        by_cases hc : c = k
        · simp [hc]
        · have hk : k ≠ c := fun e => hc e.symm
          simp [hc, Memory.readByte, hk]
      · simp only [Memory.readByte]
        by_cases hk : k = c
        · have hc : c ≠ a := by omega
          simp [hk, hc]
        · simpa [hk] using ih h'.2

/-- A read after a write: the byte written at its own address, every other byte as before (20_memory.md R55). -/
theorem Memory.readByte_writeByte {m : Memory} (h : m.wf = true) (a c : Nat) (x : Byte) :
    (m.writeByte a x).readByte c = if c = a then x else m.readByte c := Memory.readByte_writeByte_from h

/-- A byte outside the bytes written reads as before. -/
theorem Memory.readByte_writeBytes_of_outside {m : Memory} {a c : Nat} {xs : List Byte} (h : m.wf = true)
    (ha : a + xs.length ≤ Config.memSize) (hc : c < a ∨ a + xs.length ≤ c) :
    (m.writeBytes a xs).readByte c = m.readByte c := by
  induction xs generalizing m a with
  | nil => rfl
  | cons x xs ih =>
    simp only [List.length_cons] at ha hc
    have hca : c ≠ a := by omega
    rw [Memory.writeBytes, ih (Memory.wf_writeByte h (by omega)) (by omega) (by omega),
      Memory.readByte_writeByte h]
    simp [hca]

/-- Byte j of the bytes written reads back. -/
theorem Memory.readByte_writeBytes {m : Memory} {a j : Nat} {xs : List Byte} (h : m.wf = true)
    (ha : a + xs.length ≤ Config.memSize) (hj : j < xs.length) :
    (m.writeBytes a xs).readByte (a + j) = xs[j] := by
  induction xs generalizing m a j with
  | nil => exact absurd hj (Nat.not_lt_zero j)
  | cons x xs ih =>
    simp only [List.length_cons] at ha hj
    have hw := Memory.wf_writeByte (x := x) h (show a < Config.memSize by omega)
    cases j with
    | zero =>
      rw [Memory.writeBytes, Memory.readByte_writeBytes_of_outside hw (by omega) (by omega),
        Memory.readByte_writeByte h]
      simp
    | succ j =>
      have e : a + (j + 1) = a + 1 + j := by omega
      rw [Memory.writeBytes, e]
      simpa using ih hw (by omega) (show j < xs.length by omega)

@[simp] theorem Memory.length_readBytes (m : Memory) (a n : Nat) : (m.readBytes a n).length = n := by
  induction n generalizing a with
  | zero => rfl
  | succ n ih => simp [Memory.readBytes, ih]

/-- The memory right after reset has the canonical form. -/
theorem Memory.wf_reset : State.reset.mem.wf = true := rfl

end Sys2Proof.Machine
end

