-- ==== Sys2Proof/Laws/State.lean ====
section
/-! SUPPORT. The small lemmas of the state updates: one per field per update. -/

namespace Sys2Proof.Machine

@[simp] theorem State.withBlk_blk (s : State) (b : Block) : (s.withBlk b).blk = b := rfl
@[simp] theorem State.withBlk_peers (s : State) (b : Block) : (s.withBlk b).peers = s.peers := rfl
@[simp] theorem State.withBlk_mem (s : State) (b : Block) : (s.withBlk b).mem = s.mem := rfl
@[simp] theorem State.withBlk_faults (s : State) (b : Block) : (s.withBlk b).faults = s.faults := rfl
@[simp] theorem State.withBlk_hostQueue (s : State) (b : Block) : (s.withBlk b).hostQueue = s.hostQueue := rfl
@[simp] theorem State.withBlk_reads (s : State) (b : Block) : (s.withBlk b).reads = s.reads := rfl
@[simp] theorem State.withBlk_sched (s : State) (b : Block) : (s.withBlk b).sched = s.sched := rfl
@[simp] theorem State.withBlk_draws (s : State) (b : Block) : (s.withBlk b).draws = s.draws := rfl
@[simp] theorem State.withBlk_platform (s : State) (b : Block) : (s.withBlk b).platform = s.platform := rfl

@[simp] theorem State.withMem_blk (s : State) (m : Memory) : (s.withMem m).blk = s.blk := rfl
@[simp] theorem State.withMem_peers (s : State) (m : Memory) : (s.withMem m).peers = s.peers := rfl
@[simp] theorem State.withMem_mem (s : State) (m : Memory) : (s.withMem m).mem = m := rfl
@[simp] theorem State.withMem_faults (s : State) (m : Memory) : (s.withMem m).faults = s.faults := rfl
@[simp] theorem State.withMem_hostQueue (s : State) (m : Memory) : (s.withMem m).hostQueue = s.hostQueue := rfl
@[simp] theorem State.withMem_reads (s : State) (m : Memory) : (s.withMem m).reads = s.reads := rfl
@[simp] theorem State.withMem_sched (s : State) (m : Memory) : (s.withMem m).sched = s.sched := rfl
@[simp] theorem State.withMem_draws (s : State) (m : Memory) : (s.withMem m).draws = s.draws := rfl
@[simp] theorem State.withMem_platform (s : State) (m : Memory) : (s.withMem m).platform = s.platform := rfl

@[simp] theorem State.pushRead_blk (s : State) (r : HostRead) : (s.pushRead r).blk = s.blk := rfl
@[simp] theorem State.pushRead_peers (s : State) (r : HostRead) : (s.pushRead r).peers = s.peers := rfl
@[simp] theorem State.pushRead_mem (s : State) (r : HostRead) : (s.pushRead r).mem = s.mem := rfl
@[simp] theorem State.pushRead_faults (s : State) (r : HostRead) : (s.pushRead r).faults = s.faults := rfl
@[simp] theorem State.pushRead_hostQueue (s : State) (r : HostRead) : (s.pushRead r).hostQueue = s.hostQueue := rfl
@[simp] theorem State.pushRead_reads (s : State) (r : HostRead) : (s.pushRead r).reads = r :: s.reads := rfl
@[simp] theorem State.pushRead_sched (s : State) (r : HostRead) : (s.pushRead r).sched = s.sched := rfl
@[simp] theorem State.pushRead_draws (s : State) (r : HostRead) : (s.pushRead r).draws = s.draws := rfl
@[simp] theorem State.pushRead_platform (s : State) (r : HostRead) : (s.pushRead r).platform = s.platform := rfl

@[simp] theorem State.nextDraw_blk (s : State) : (s.nextDraw).blk = s.blk := rfl
@[simp] theorem State.nextDraw_peers (s : State) : (s.nextDraw).peers = s.peers := rfl
@[simp] theorem State.nextDraw_mem (s : State) : (s.nextDraw).mem = s.mem := rfl
@[simp] theorem State.nextDraw_faults (s : State) : (s.nextDraw).faults = s.faults := rfl
@[simp] theorem State.nextDraw_hostQueue (s : State) : (s.nextDraw).hostQueue = s.hostQueue := rfl
@[simp] theorem State.nextDraw_reads (s : State) : (s.nextDraw).reads = s.reads := rfl
@[simp] theorem State.nextDraw_sched (s : State) : (s.nextDraw).sched = s.sched := rfl
@[simp] theorem State.nextDraw_draws (s : State) : (s.nextDraw).draws = s.draws + 1 := rfl
@[simp] theorem State.nextDraw_platform (s : State) : (s.nextDraw).platform = s.platform := rfl

@[simp] theorem State.withQueue_blk (s : State) (q : List HostAction) : (s.withQueue q).blk = s.blk := rfl
@[simp] theorem State.withQueue_peers (s : State) (q : List HostAction) : (s.withQueue q).peers = s.peers := rfl
@[simp] theorem State.withQueue_mem (s : State) (q : List HostAction) : (s.withQueue q).mem = s.mem := rfl
@[simp] theorem State.withQueue_faults (s : State) (q : List HostAction) : (s.withQueue q).faults = s.faults := rfl
@[simp] theorem State.withQueue_hostQueue (s : State) (q : List HostAction) : (s.withQueue q).hostQueue = q := rfl
@[simp] theorem State.withQueue_reads (s : State) (q : List HostAction) : (s.withQueue q).reads = s.reads := rfl
@[simp] theorem State.withQueue_sched (s : State) (q : List HostAction) : (s.withQueue q).sched = s.sched := rfl
@[simp] theorem State.withQueue_draws (s : State) (q : List HostAction) : (s.withQueue q).draws = s.draws := rfl
@[simp] theorem State.withQueue_platform (s : State) (q : List HostAction) : (s.withQueue q).platform = s.platform := rfl

@[simp] theorem State.withSched_blk (s : State) (ts : List Turn) : (s.withSched ts).blk = s.blk := rfl
@[simp] theorem State.withSched_peers (s : State) (ts : List Turn) : (s.withSched ts).peers = s.peers := rfl
@[simp] theorem State.withSched_mem (s : State) (ts : List Turn) : (s.withSched ts).mem = s.mem := rfl
@[simp] theorem State.withSched_faults (s : State) (ts : List Turn) : (s.withSched ts).faults = s.faults := rfl
@[simp] theorem State.withSched_hostQueue (s : State) (ts : List Turn) : (s.withSched ts).hostQueue = s.hostQueue := rfl
@[simp] theorem State.withSched_reads (s : State) (ts : List Turn) : (s.withSched ts).reads = s.reads := rfl
@[simp] theorem State.withSched_sched (s : State) (ts : List Turn) : (s.withSched ts).sched = ts := rfl
@[simp] theorem State.withSched_draws (s : State) (ts : List Turn) : (s.withSched ts).draws = s.draws := rfl
@[simp] theorem State.withSched_platform (s : State) (ts : List Turn) : (s.withSched ts).platform = s.platform := rfl

@[simp] theorem State.record_blk (s : State) (k : ModelFault) : (s.record k).blk = s.blk := rfl
@[simp] theorem State.record_peers (s : State) (k : ModelFault) : (s.record k).peers = s.peers := rfl
@[simp] theorem State.record_mem (s : State) (k : ModelFault) : (s.record k).mem = s.mem := rfl
@[simp] theorem State.record_faults (s : State) (k : ModelFault) : (s.record k).faults = s.faults.set k := rfl
@[simp] theorem State.record_hostQueue (s : State) (k : ModelFault) : (s.record k).hostQueue = s.hostQueue := rfl
@[simp] theorem State.record_reads (s : State) (k : ModelFault) : (s.record k).reads = s.reads := rfl
@[simp] theorem State.record_sched (s : State) (k : ModelFault) : (s.record k).sched = s.sched := rfl
@[simp] theorem State.record_draws (s : State) (k : ModelFault) : (s.record k).draws = s.draws := rfl
@[simp] theorem State.record_platform (s : State) (k : ModelFault) : (s.record k).platform = s.platform := rfl

@[simp] theorem State.swap_blk (s : State) (j : Nat) (b : Block) : (s.swap j b).blk = b := rfl
@[simp] theorem State.swap_peers (s : State) (j : Nat) (b : Block) : (s.swap j b).peers = s.peers.set j s.blk := rfl
@[simp] theorem State.swap_mem (s : State) (j : Nat) (b : Block) : (s.swap j b).mem = s.mem := rfl
@[simp] theorem State.swap_faults (s : State) (j : Nat) (b : Block) : (s.swap j b).faults = s.faults := rfl
@[simp] theorem State.swap_hostQueue (s : State) (j : Nat) (b : Block) : (s.swap j b).hostQueue = s.hostQueue := rfl
@[simp] theorem State.swap_reads (s : State) (j : Nat) (b : Block) : (s.swap j b).reads = s.reads := rfl
@[simp] theorem State.swap_sched (s : State) (j : Nat) (b : Block) : (s.swap j b).sched = s.sched := rfl
@[simp] theorem State.swap_draws (s : State) (j : Nat) (b : Block) : (s.swap j b).draws = s.draws := rfl
@[simp] theorem State.swap_platform (s : State) (j : Nat) (b : Block) : (s.swap j b).platform = s.platform := rfl

@[simp] theorem State.recordIf_blk (s : State) (c : Bool) (k : ModelFault) : (s.recordIf c k).blk = s.blk := rfl
@[simp] theorem State.recordIf_peers (s : State) (c : Bool) (k : ModelFault) : (s.recordIf c k).peers = s.peers := rfl
@[simp] theorem State.recordIf_mem (s : State) (c : Bool) (k : ModelFault) : (s.recordIf c k).mem = s.mem := rfl
@[simp] theorem State.recordIf_hostQueue (s : State) (c : Bool) (k : ModelFault) : (s.recordIf c k).hostQueue = s.hostQueue := rfl
@[simp] theorem State.recordIf_reads (s : State) (c : Bool) (k : ModelFault) : (s.recordIf c k).reads = s.reads := rfl
@[simp] theorem State.recordIf_sched (s : State) (c : Bool) (k : ModelFault) : (s.recordIf c k).sched = s.sched := rfl
@[simp] theorem State.recordIf_draws (s : State) (c : Bool) (k : ModelFault) : (s.recordIf c k).draws = s.draws := rfl
@[simp] theorem State.recordIf_platform (s : State) (c : Bool) (k : ModelFault) : (s.recordIf c k).platform = s.platform := rfl

@[simp] theorem State.noteHost_blk (s : State) (kind : AccessKind) (r : Region) : (s.noteHost kind r).blk = s.blk := rfl
@[simp] theorem State.noteHost_peers (s : State) (kind : AccessKind) (r : Region) : (s.noteHost kind r).peers = s.peers := rfl
@[simp] theorem State.noteHost_mem (s : State) (kind : AccessKind) (r : Region) : (s.noteHost kind r).mem = s.mem := rfl
@[simp] theorem State.noteHost_hostQueue (s : State) (kind : AccessKind) (r : Region) : (s.noteHost kind r).hostQueue = s.hostQueue := rfl
@[simp] theorem State.noteHost_reads (s : State) (kind : AccessKind) (r : Region) : (s.noteHost kind r).reads = s.reads := rfl
@[simp] theorem State.noteHost_sched (s : State) (kind : AccessKind) (r : Region) : (s.noteHost kind r).sched = s.sched := rfl
@[simp] theorem State.noteHost_draws (s : State) (kind : AccessKind) (r : Region) : (s.noteHost kind r).draws = s.draws := rfl
@[simp] theorem State.noteHost_platform (s : State) (kind : AccessKind) (r : Region) : (s.noteHost kind r).platform = s.platform := rfl

@[simp] theorem State.noteEngine_blk (s : State) (kind : AccessKind) (a : Nat) : (s.noteEngine kind a).blk = s.blk := rfl
@[simp] theorem State.noteEngine_peers (s : State) (kind : AccessKind) (a : Nat) : (s.noteEngine kind a).peers = s.peers := rfl
@[simp] theorem State.noteEngine_mem (s : State) (kind : AccessKind) (a : Nat) : (s.noteEngine kind a).mem = s.mem := rfl
@[simp] theorem State.noteEngine_hostQueue (s : State) (kind : AccessKind) (a : Nat) : (s.noteEngine kind a).hostQueue = s.hostQueue := rfl
@[simp] theorem State.noteEngine_reads (s : State) (kind : AccessKind) (a : Nat) : (s.noteEngine kind a).reads = s.reads := rfl
@[simp] theorem State.noteEngine_sched (s : State) (kind : AccessKind) (a : Nat) : (s.noteEngine kind a).sched = s.sched := rfl
@[simp] theorem State.noteEngine_draws (s : State) (kind : AccessKind) (a : Nat) : (s.noteEngine kind a).draws = s.draws := rfl
@[simp] theorem State.noteEngine_platform (s : State) (kind : AccessKind) (a : Nat) : (s.noteEngine kind a).platform = s.platform := rfl

/-- Two updates of the focus, the second counts. -/
@[simp] theorem State.withBlk_withBlk (s : State) (b c : Block) : (s.withBlk b).withBlk c = s.withBlk c := rfl

/-- Putting the instance in focus back changes nothing. -/
@[simp] theorem State.withBlk_blk_self (s : State) : s.withBlk s.blk = s := rfl

@[simp] theorem Block.acceptFlags_done (b : Block) : (b.acceptFlags).done = false := rfl
@[simp] theorem Block.acceptFlags_err (b : Block) : (b.acceptFlags).err = false := rfl
@[simp] theorem Block.acceptFlags_errcode (b : Block) : (b.acceptFlags).errcode = 0 := rfl
@[simp] theorem Block.acceptFlags_srcAddr (b : Block) : (b.acceptFlags).srcAddr = b.srcAddr := rfl
@[simp] theorem Block.acceptFlags_srcLen (b : Block) : (b.acceptFlags).srcLen = b.srcLen := rfl
@[simp] theorem Block.acceptFlags_dstAddr (b : Block) : (b.acceptFlags).dstAddr = b.dstAddr := rfl
@[simp] theorem Block.acceptFlags_resultLen (b : Block) : (b.acceptFlags).resultLen = b.resultLen := rfl
@[simp] theorem Block.acceptFlags_fsm (b : Block) : (b.acceptFlags).fsm = b.fsm := rfl
@[simp] theorem Block.acceptFlags_S (b : Block) : (b.acceptFlags).S = b.S := rfl
@[simp] theorem Block.acceptFlags_L (b : Block) : (b.acceptFlags).L = b.L := rfl
@[simp] theorem Block.acceptFlags_D (b : Block) : (b.acceptFlags).D = b.D := rfl
@[simp] theorem Block.acceptFlags_i (b : Block) : (b.acceptFlags).i = b.i := rfl
@[simp] theorem Block.acceptFlags_cur (b : Block) : (b.acceptFlags).cur = b.cur := rfl
@[simp] theorem Block.acceptFlags_codep (b : Block) : (b.acceptFlags).codep = b.codep := rfl
@[simp] theorem Block.acceptFlags_code (b : Block) : (b.acceptFlags).code = b.code := rfl
@[simp] theorem Block.acceptFlags_byte (b : Block) : (b.acceptFlags).byte = b.byte := rfl
@[simp] theorem Block.acceptFlags_block (b : Block) : (b.acceptFlags).block = b.block := rfl
@[simp] theorem Block.acceptFlags_zpend (b : Block) : (b.acceptFlags).zpend = b.zpend := rfl
@[simp] theorem Block.acceptFlags_v (b : Block) : (b.acceptFlags).v = b.v := rfl
@[simp] theorem Block.acceptFlags_port (b : Block) : (b.acceptFlags).port = b.port := rfl
@[simp] theorem Block.acceptFlags_duties (b : Block) : (b.acceptFlags).duties = b.duties := rfl

@[simp] theorem Block.completeFlags_done (b : Block) : (b.completeFlags).done = true := rfl
@[simp] theorem Block.completeFlags_err (b : Block) : (b.completeFlags).err = false := rfl
@[simp] theorem Block.completeFlags_errcode (b : Block) : (b.completeFlags).errcode = 0 := rfl
@[simp] theorem Block.completeFlags_srcAddr (b : Block) : (b.completeFlags).srcAddr = b.srcAddr := rfl
@[simp] theorem Block.completeFlags_srcLen (b : Block) : (b.completeFlags).srcLen = b.srcLen := rfl
@[simp] theorem Block.completeFlags_dstAddr (b : Block) : (b.completeFlags).dstAddr = b.dstAddr := rfl
@[simp] theorem Block.completeFlags_resultLen (b : Block) : (b.completeFlags).resultLen = b.resultLen := rfl
@[simp] theorem Block.completeFlags_fsm (b : Block) : (b.completeFlags).fsm = b.fsm := rfl
@[simp] theorem Block.completeFlags_S (b : Block) : (b.completeFlags).S = b.S := rfl
@[simp] theorem Block.completeFlags_L (b : Block) : (b.completeFlags).L = b.L := rfl
@[simp] theorem Block.completeFlags_D (b : Block) : (b.completeFlags).D = b.D := rfl
@[simp] theorem Block.completeFlags_i (b : Block) : (b.completeFlags).i = b.i := rfl
@[simp] theorem Block.completeFlags_cur (b : Block) : (b.completeFlags).cur = b.cur := rfl
@[simp] theorem Block.completeFlags_codep (b : Block) : (b.completeFlags).codep = b.codep := rfl
@[simp] theorem Block.completeFlags_code (b : Block) : (b.completeFlags).code = b.code := rfl
@[simp] theorem Block.completeFlags_byte (b : Block) : (b.completeFlags).byte = b.byte := rfl
@[simp] theorem Block.completeFlags_block (b : Block) : (b.completeFlags).block = b.block := rfl
@[simp] theorem Block.completeFlags_zpend (b : Block) : (b.completeFlags).zpend = b.zpend := rfl
@[simp] theorem Block.completeFlags_v (b : Block) : (b.completeFlags).v = b.v := rfl
@[simp] theorem Block.completeFlags_port (b : Block) : (b.completeFlags).port = b.port := rfl
@[simp] theorem Block.completeFlags_duties (b : Block) : (b.completeFlags).duties = b.duties := rfl

@[simp] theorem Block.rejectFlags_done (b : Block) (e : ErrCode) : (b.rejectFlags e).done = true := rfl
@[simp] theorem Block.rejectFlags_err (b : Block) (e : ErrCode) : (b.rejectFlags e).err = true := rfl
@[simp] theorem Block.rejectFlags_errcode (b : Block) (e : ErrCode) : (b.rejectFlags e).errcode = e.bits := rfl
@[simp] theorem Block.rejectFlags_srcAddr (b : Block) (e : ErrCode) : (b.rejectFlags e).srcAddr = b.srcAddr := rfl
@[simp] theorem Block.rejectFlags_srcLen (b : Block) (e : ErrCode) : (b.rejectFlags e).srcLen = b.srcLen := rfl
@[simp] theorem Block.rejectFlags_dstAddr (b : Block) (e : ErrCode) : (b.rejectFlags e).dstAddr = b.dstAddr := rfl
@[simp] theorem Block.rejectFlags_resultLen (b : Block) (e : ErrCode) : (b.rejectFlags e).resultLen = b.resultLen := rfl
@[simp] theorem Block.rejectFlags_fsm (b : Block) (e : ErrCode) : (b.rejectFlags e).fsm = b.fsm := rfl
@[simp] theorem Block.rejectFlags_S (b : Block) (e : ErrCode) : (b.rejectFlags e).S = b.S := rfl
@[simp] theorem Block.rejectFlags_L (b : Block) (e : ErrCode) : (b.rejectFlags e).L = b.L := rfl
@[simp] theorem Block.rejectFlags_D (b : Block) (e : ErrCode) : (b.rejectFlags e).D = b.D := rfl
@[simp] theorem Block.rejectFlags_i (b : Block) (e : ErrCode) : (b.rejectFlags e).i = b.i := rfl
@[simp] theorem Block.rejectFlags_cur (b : Block) (e : ErrCode) : (b.rejectFlags e).cur = b.cur := rfl
@[simp] theorem Block.rejectFlags_codep (b : Block) (e : ErrCode) : (b.rejectFlags e).codep = b.codep := rfl
@[simp] theorem Block.rejectFlags_code (b : Block) (e : ErrCode) : (b.rejectFlags e).code = b.code := rfl
@[simp] theorem Block.rejectFlags_byte (b : Block) (e : ErrCode) : (b.rejectFlags e).byte = b.byte := rfl
@[simp] theorem Block.rejectFlags_block (b : Block) (e : ErrCode) : (b.rejectFlags e).block = b.block := rfl
@[simp] theorem Block.rejectFlags_zpend (b : Block) (e : ErrCode) : (b.rejectFlags e).zpend = b.zpend := rfl
@[simp] theorem Block.rejectFlags_v (b : Block) (e : ErrCode) : (b.rejectFlags e).v = b.v := rfl
@[simp] theorem Block.rejectFlags_port (b : Block) (e : ErrCode) : (b.rejectFlags e).port = b.port := rfl
@[simp] theorem Block.rejectFlags_duties (b : Block) (e : ErrCode) : (b.rejectFlags e).duties = b.duties := rfl

@[simp] theorem Block.latch_done (b : Block) : (b.latch).done = b.done := rfl
@[simp] theorem Block.latch_err (b : Block) : (b.latch).err = b.err := rfl
@[simp] theorem Block.latch_errcode (b : Block) : (b.latch).errcode = b.errcode := rfl
@[simp] theorem Block.latch_srcAddr (b : Block) : (b.latch).srcAddr = b.srcAddr := rfl
@[simp] theorem Block.latch_srcLen (b : Block) : (b.latch).srcLen = b.srcLen := rfl
@[simp] theorem Block.latch_dstAddr (b : Block) : (b.latch).dstAddr = b.dstAddr := rfl
@[simp] theorem Block.latch_resultLen (b : Block) : (b.latch).resultLen = b.resultLen := rfl
@[simp] theorem Block.latch_fsm (b : Block) : (b.latch).fsm = b.fsm := rfl
@[simp] theorem Block.latch_S (b : Block) : (b.latch).S = b.srcAddr := rfl
@[simp] theorem Block.latch_L (b : Block) : (b.latch).L = b.srcLen := rfl
@[simp] theorem Block.latch_D (b : Block) : (b.latch).D = b.dstAddr := rfl
@[simp] theorem Block.latch_i (b : Block) : (b.latch).i = b.i := rfl
@[simp] theorem Block.latch_cur (b : Block) : (b.latch).cur = b.cur := rfl
@[simp] theorem Block.latch_codep (b : Block) : (b.latch).codep = b.codep := rfl
@[simp] theorem Block.latch_code (b : Block) : (b.latch).code = b.code := rfl
@[simp] theorem Block.latch_byte (b : Block) : (b.latch).byte = b.byte := rfl
@[simp] theorem Block.latch_block (b : Block) : (b.latch).block = b.block := rfl
@[simp] theorem Block.latch_zpend (b : Block) : (b.latch).zpend = b.zpend := rfl
@[simp] theorem Block.latch_v (b : Block) : (b.latch).v = b.v := rfl
@[simp] theorem Block.latch_port (b : Block) : (b.latch).port = b.port := rfl
@[simp] theorem Block.latch_duties (b : Block) : (b.latch).duties = b.duties := rfl

@[simp] theorem Block.toEncNext_done (b : Block) : (b.toEncNext).done = b.done := rfl
@[simp] theorem Block.toEncNext_err (b : Block) : (b.toEncNext).err = b.err := rfl
@[simp] theorem Block.toEncNext_errcode (b : Block) : (b.toEncNext).errcode = b.errcode := rfl
@[simp] theorem Block.toEncNext_srcAddr (b : Block) : (b.toEncNext).srcAddr = b.srcAddr := rfl
@[simp] theorem Block.toEncNext_srcLen (b : Block) : (b.toEncNext).srcLen = b.srcLen := rfl
@[simp] theorem Block.toEncNext_dstAddr (b : Block) : (b.toEncNext).dstAddr = b.dstAddr := rfl
@[simp] theorem Block.toEncNext_resultLen (b : Block) : (b.toEncNext).resultLen = b.resultLen := rfl
@[simp] theorem Block.toEncNext_fsm (b : Block) : (b.toEncNext).fsm = b.encNext := rfl
@[simp] theorem Block.toEncNext_S (b : Block) : (b.toEncNext).S = b.S := rfl
@[simp] theorem Block.toEncNext_L (b : Block) : (b.toEncNext).L = b.L := rfl
@[simp] theorem Block.toEncNext_D (b : Block) : (b.toEncNext).D = b.D := rfl
@[simp] theorem Block.toEncNext_i (b : Block) : (b.toEncNext).i = b.i := rfl
@[simp] theorem Block.toEncNext_cur (b : Block) : (b.toEncNext).cur = b.cur := rfl
@[simp] theorem Block.toEncNext_codep (b : Block) : (b.toEncNext).codep = b.codep := rfl
@[simp] theorem Block.toEncNext_code (b : Block) : (b.toEncNext).code = b.code := rfl
@[simp] theorem Block.toEncNext_byte (b : Block) : (b.toEncNext).byte = b.byte := rfl
@[simp] theorem Block.toEncNext_block (b : Block) : (b.toEncNext).block = b.block := rfl
@[simp] theorem Block.toEncNext_zpend (b : Block) : (b.toEncNext).zpend = b.zpend := rfl
@[simp] theorem Block.toEncNext_v (b : Block) : (b.toEncNext).v = b.v := rfl
@[simp] theorem Block.toEncNext_port (b : Block) : (b.toEncNext).port = b.port := rfl
@[simp] theorem Block.toEncNext_duties (b : Block) : (b.toEncNext).duties = b.duties := rfl

@[simp] theorem Block.toDecNext_done (b : Block) : (b.toDecNext).done = b.done := rfl
@[simp] theorem Block.toDecNext_err (b : Block) : (b.toDecNext).err = b.err := rfl
@[simp] theorem Block.toDecNext_errcode (b : Block) : (b.toDecNext).errcode = b.errcode := rfl
@[simp] theorem Block.toDecNext_srcAddr (b : Block) : (b.toDecNext).srcAddr = b.srcAddr := rfl
@[simp] theorem Block.toDecNext_srcLen (b : Block) : (b.toDecNext).srcLen = b.srcLen := rfl
@[simp] theorem Block.toDecNext_dstAddr (b : Block) : (b.toDecNext).dstAddr = b.dstAddr := rfl
@[simp] theorem Block.toDecNext_resultLen (b : Block) : (b.toDecNext).resultLen = b.resultLen := rfl
@[simp] theorem Block.toDecNext_fsm (b : Block) : (b.toDecNext).fsm = b.decNext := rfl
@[simp] theorem Block.toDecNext_S (b : Block) : (b.toDecNext).S = b.S := rfl
@[simp] theorem Block.toDecNext_L (b : Block) : (b.toDecNext).L = b.L := rfl
@[simp] theorem Block.toDecNext_D (b : Block) : (b.toDecNext).D = b.D := rfl
@[simp] theorem Block.toDecNext_i (b : Block) : (b.toDecNext).i = b.i := rfl
@[simp] theorem Block.toDecNext_cur (b : Block) : (b.toDecNext).cur = b.cur := rfl
@[simp] theorem Block.toDecNext_codep (b : Block) : (b.toDecNext).codep = b.codep := rfl
@[simp] theorem Block.toDecNext_code (b : Block) : (b.toDecNext).code = b.code := rfl
@[simp] theorem Block.toDecNext_byte (b : Block) : (b.toDecNext).byte = b.byte := rfl
@[simp] theorem Block.toDecNext_block (b : Block) : (b.toDecNext).block = b.block := rfl
@[simp] theorem Block.toDecNext_zpend (b : Block) : (b.toDecNext).zpend = b.zpend := rfl
@[simp] theorem Block.toDecNext_v (b : Block) : (b.toDecNext).v = b.v := rfl
@[simp] theorem Block.toDecNext_port (b : Block) : (b.toDecNext).port = b.port := rfl
@[simp] theorem Block.toDecNext_duties (b : Block) : (b.toDecNext).duties = b.duties := rfl

@[simp] theorem Block.encInit_done (b : Block) : (b.encInit).done = b.done := rfl
@[simp] theorem Block.encInit_err (b : Block) : (b.encInit).err = b.err := rfl
@[simp] theorem Block.encInit_errcode (b : Block) : (b.encInit).errcode = b.errcode := rfl
@[simp] theorem Block.encInit_srcAddr (b : Block) : (b.encInit).srcAddr = b.srcAddr := rfl
@[simp] theorem Block.encInit_srcLen (b : Block) : (b.encInit).srcLen = b.srcLen := rfl
@[simp] theorem Block.encInit_dstAddr (b : Block) : (b.encInit).dstAddr = b.dstAddr := rfl
@[simp] theorem Block.encInit_resultLen (b : Block) : (b.encInit).resultLen = b.resultLen := rfl
@[simp] theorem Block.encInit_fsm (b : Block) : (b.encInit).fsm = if 0 < b.L then .encRead else .encFinal := rfl
@[simp] theorem Block.encInit_S (b : Block) : (b.encInit).S = b.S := rfl
@[simp] theorem Block.encInit_L (b : Block) : (b.encInit).L = b.L := rfl
@[simp] theorem Block.encInit_D (b : Block) : (b.encInit).D = b.D := rfl
@[simp] theorem Block.encInit_i (b : Block) : (b.encInit).i = 0 := rfl
@[simp] theorem Block.encInit_cur (b : Block) : (b.encInit).cur = 1 := rfl
@[simp] theorem Block.encInit_codep (b : Block) : (b.encInit).codep = 0 := rfl
@[simp] theorem Block.encInit_code (b : Block) : (b.encInit).code = 1 := rfl
@[simp] theorem Block.encInit_byte (b : Block) : (b.encInit).byte = b.byte := rfl
@[simp] theorem Block.encInit_block (b : Block) : (b.encInit).block = b.block := rfl
@[simp] theorem Block.encInit_zpend (b : Block) : (b.encInit).zpend = b.zpend := rfl
@[simp] theorem Block.encInit_v (b : Block) : (b.encInit).v = b.v := rfl
@[simp] theorem Block.encInit_port (b : Block) : (b.encInit).port = b.port := rfl
@[simp] theorem Block.encInit_duties (b : Block) : (b.encInit).duties = b.duties := rfl

@[simp] theorem Block.decInit_done (b : Block) : (b.decInit).done = b.done := rfl
@[simp] theorem Block.decInit_err (b : Block) : (b.decInit).err = b.err := rfl
@[simp] theorem Block.decInit_errcode (b : Block) : (b.decInit).errcode = b.errcode := rfl
@[simp] theorem Block.decInit_srcAddr (b : Block) : (b.decInit).srcAddr = b.srcAddr := rfl
@[simp] theorem Block.decInit_srcLen (b : Block) : (b.decInit).srcLen = b.srcLen := rfl
@[simp] theorem Block.decInit_dstAddr (b : Block) : (b.decInit).dstAddr = b.dstAddr := rfl
@[simp] theorem Block.decInit_resultLen (b : Block) : (b.decInit).resultLen = b.resultLen := rfl
@[simp] theorem Block.decInit_fsm (b : Block) : (b.decInit).fsm = if 0 < b.L then .decCode else .complete := rfl
@[simp] theorem Block.decInit_S (b : Block) : (b.decInit).S = b.S := rfl
@[simp] theorem Block.decInit_L (b : Block) : (b.decInit).L = b.L := rfl
@[simp] theorem Block.decInit_D (b : Block) : (b.decInit).D = b.D := rfl
@[simp] theorem Block.decInit_i (b : Block) : (b.decInit).i = 0 := rfl
@[simp] theorem Block.decInit_cur (b : Block) : (b.decInit).cur = 0 := rfl
@[simp] theorem Block.decInit_codep (b : Block) : (b.decInit).codep = b.codep := rfl
@[simp] theorem Block.decInit_code (b : Block) : (b.decInit).code = b.code := rfl
@[simp] theorem Block.decInit_byte (b : Block) : (b.decInit).byte = b.byte := rfl
@[simp] theorem Block.decInit_block (b : Block) : (b.decInit).block = 0 := rfl
@[simp] theorem Block.decInit_zpend (b : Block) : (b.decInit).zpend = false := rfl
@[simp] theorem Block.decInit_v (b : Block) : (b.decInit).v = b.v := rfl
@[simp] theorem Block.decInit_port (b : Block) : (b.decInit).port = b.port := rfl
@[simp] theorem Block.decInit_duties (b : Block) : (b.decInit).duties = b.duties := rfl

end Sys2Proof.Machine
end

