-- ==== Sys2Proof/Laws/Ops.lean ====
section
/-! SUPPORT. Everything each shared operation can do, said once. -/

namespace Sys2Proof.Machine

/-! The Engine's access primitives (20_memory.md R52). -/

theorem memRead_of_admitted {a : Nat} {s : State} {k : Byte → State → Result} (ha : a < Config.memSize)
    (h : memAdmit s.blk.port.denied .read a = true) : memRead a s k = k (s.mem.readByte a) (s.noteEngine .read a) := by
  simp [memRead, h, show ¬ Config.memSize ≤ a by omega]

theorem memRead_of_not_admitted {a : Nat} {s : State} {k : Byte → State → Result} (ha : a < Config.memSize)
    (h : memAdmit s.blk.port.denied .read a = false) : memRead a s k = .next s := by
  simp [memRead, h, show ¬ Config.memSize ≤ a by omega]

/-- A MemRead that answers a next state: the rest of the step answered it, or the request was not admitted and nothing
changed. -/
theorem memRead_next {a : Nat} {s t : State} {k : Byte → State → Result} (h : memRead a s k = .next t) :
    a < Config.memSize ∧
      ((memAdmit s.blk.port.denied .read a = true ∧ k (s.mem.readByte a) (s.noteEngine .read a) = .next t) ∨
        (memAdmit s.blk.port.denied .read a = false ∧ t = s)) := by
  unfold memRead at h
  split at h
  · cases h
  · refine ⟨by omega, ?_⟩
    split at h
    · exact .inl ⟨‹_›, h⟩
    · cases h; exact .inr ⟨Bool.eq_false_iff.mpr ‹_›, rfl⟩

theorem memWrite_of_admitted {a : Nat} {x : Byte} {s : State} {k : State → Result} (ha : a < Config.memSize)
    (h : memAdmit s.blk.port.denied .write a = true) :
    memWrite a x s k = k ((s.withMem (s.mem.writeByte a x)).noteEngine .write a) := by
  simp [memWrite, h, show ¬ Config.memSize ≤ a by omega]

theorem memWrite_of_not_admitted {a : Nat} {x : Byte} {s : State} {k : State → Result} (ha : a < Config.memSize)
    (h : memAdmit s.blk.port.denied .write a = false) : memWrite a x s k = .next s := by
  simp [memWrite, h, show ¬ Config.memSize ≤ a by omega]

/-- A MemWrite that answers a next state: the rest of the step answered it, or the request was not admitted and
nothing changed. -/
theorem memWrite_next {a : Nat} {x : Byte} {s t : State} {k : State → Result} (h : memWrite a x s k = .next t) :
    a < Config.memSize ∧
      ((memAdmit s.blk.port.denied .write a = true ∧
          k ((s.withMem (s.mem.writeByte a x)).noteEngine .write a) = .next t) ∨
        (memAdmit s.blk.port.denied .write a = false ∧ t = s)) := by
  unfold memWrite at h
  split at h
  · cases h
  · refine ⟨by omega, ?_⟩
    split at h
    · exact .inl ⟨‹_›, h⟩
    · cases h; exact .inr ⟨Bool.eq_false_iff.mpr ‹_›, rfl⟩

/-! Values that fit their register (00_scope.md R8). -/

theorem fitWord_of_lt {n : Nat} {k : Word → Result} (h : n < 2 ^ 32) : fitWord n k = k (BitVec.ofNat 32 n) := if_pos h

theorem fitWord_next {n : Nat} {k : Word → Result} {t : State} (h : fitWord n k = .next t) :
    n < 2 ^ 32 ∧ k (BitVec.ofNat 32 n) = .next t := by
  unfold fitWord at h
  split at h
  · exact ⟨‹_›, h⟩
  · cases h

theorem fitByte_of_lt {n : Nat} {k : Byte → Result} (h : n < 2 ^ 8) : fitByte n k = k (BitVec.ofNat 8 n) := if_pos h

theorem fitByte_next {n : Nat} {k : Byte → Result} {t : State} (h : fitByte n k = .next t) :
    n < 2 ^ 8 ∧ k (BitVec.ofNat 8 n) = .next t := by
  unfold fitByte at h
  split at h
  · exact ⟨‹_›, h⟩
  · cases h

/-! The acceptance check (40_command.md R83). -/

theorem Region.meets_iff {r q : Region} : r.meets q = true ↔ r.1 < r.2 ∧ q.1 < q.2 ∧ r.1 < q.2 ∧ q.1 < r.2 := by
  simp [Region.meets, and_assoc]

theorem Region.meets_eq_false_iff {r q : Region} :
    r.meets q = false ↔ ¬ (r.1 < r.2 ∧ q.1 < q.2 ∧ r.1 < q.2 ∧ q.1 < r.2) := by
  rw [← Region.meets_iff]; simp

/-- What the operands of an accepted command satisfy. -/
theorem check_eq_none_iff {cmd : Command} {sa sl da : Word} :
    check cmd sa sl da = .none ↔
      cmd ≠ .illegal ∧ sa ≠ 0 ∧ da ≠ 0 ∧ sa.toNat + sl.toNat ≤ 2 ^ 32 ∧ da.toNat + capOf cmd sl.toNat ≤ 2 ^ 32 ∧
        (srcRegion sa sl).meets (dstRegion cmd sl da) = false := by
  unfold check
  by_cases h1 : cmd = .illegal
  · simp [h1]
  · by_cases h2 : sa = Config.nullAddr ∨ da = Config.nullAddr
    · simp only [h1, h2, if_true, if_false]
      rcases h2 with h | h <;> simp [h, Config.nullAddr]
    · by_cases h3 : sa.toNat + sl.toNat > Config.memSize ∨ da.toNat + capOf cmd sl.toNat > Config.memSize
      · simp only [h1, h2, h3, if_true, if_false]
        simp only [Config.memSize] at h3
        constructor
        · intro h; cases h
        · rintro ⟨-, -, -, h4, h5, -⟩; omega
      · simp only [h1, h2, h3, if_false]
        simp only [Config.memSize, Config.nullAddr, not_or, not_lt, gt_iff_lt] at h2 h3
        cases h4 : (srcRegion sa sl).meets (dstRegion cmd sl da)
        · simp [h1]; exact ⟨h2.1, h2.2, by omega, by omega⟩
        · simp

theorem check_illegal (sa sl da : Word) : check .illegal sa sl da = .illegalCmd := rfl

/-! The command write (40_command.md R82). -/

theorem writeCommand_of_busy {w : Word} {s : State} (h : s.blk.busy = true) :
    writeCommand w s = .next (s.record .hostProtocol) := if_pos h

theorem writeCommand_of_accept {w : Word} {s : State} (h : s.blk.busy = false)
    (hc : check (decodeCmd w) s.blk.srcAddr s.blk.srcLen s.blk.dstAddr = .none) :
    writeCommand w s = accept (decodeCmd w) s := by simp [writeCommand, h, hc]

theorem writeCommand_of_reject {w : Word} {s : State} {e : ErrCode} (h : s.blk.busy = false)
    (hc : check (decodeCmd w) s.blk.srcAddr s.blk.srcLen s.blk.dstAddr = e) (he : e ≠ .none) :
    writeCommand w s = reject e s := by
  subst hc
  simp only [writeCommand, h, Bool.false_eq_true, if_false]
  split <;> simp_all

/-- Everything a command write can do: a recorded fault, an accept, or a rejection. -/
theorem writeCommand_cases (w : Word) (s : State) :
    (s.blk.busy = true ∧ writeCommand w s = .next (s.record .hostProtocol)) ∨
    (s.blk.busy = false ∧ check (decodeCmd w) s.blk.srcAddr s.blk.srcLen s.blk.dstAddr = .none ∧
      writeCommand w s = accept (decodeCmd w) s) ∨
    (s.blk.busy = false ∧ check (decodeCmd w) s.blk.srcAddr s.blk.srcLen s.blk.dstAddr ≠ .none ∧
      writeCommand w s = reject (check (decodeCmd w) s.blk.srcAddr s.blk.srcLen s.blk.dstAddr) s) := by
  cases hb : s.blk.busy with
  | true => exact .inl ⟨rfl, writeCommand_of_busy hb⟩
  | false =>
    by_cases hc : check (decodeCmd w) s.blk.srcAddr s.blk.srcLen s.blk.dstAddr = .none
    · exact .inr (.inl ⟨rfl, hc, writeCommand_of_accept hb hc⟩)
    · exact .inr (.inr ⟨rfl, hc, writeCommand_of_reject hb rfl hc⟩)

/-! Model faults (60_exceptions.md R147). -/

/-- Recording a fault clears no flag. -/
theorem FaultFlags.set_mono (f : FaultFlags) (k : ModelFault) :
    (f.hostProtocol = true → (f.set k).hostProtocol = true) ∧ (f.hostRace = true → (f.set k).hostRace = true) := by
  cases k <;> simp [FaultFlags.set]

theorem State.recordIf_faults (s : State) (c : Bool) (k : ModelFault) :
    (s.recordIf c k).faults = if c then s.faults.set k else s.faults := rfl

/-- An Engine access records at most a race: no field but the flags changes. -/
theorem State.noteEngine_faults (s : State) (kind : AccessKind) (a : Nat) :
    (s.noteEngine kind a).faults = if breaksDuty s.peers kind (a, a + 1) then s.faults.set .hostRace else s.faults :=
  rfl

/-! Acting on an instance. -/

theorem atBlock_zero (f : State → Result) (r : Result) (s : State) : atBlock 0 f r s = f s := rfl

theorem atBlock_of_absent {j : Nat} (f : State → Result) (r : Result) {s : State} (h : s.peers[j]? = none) :
    atBlock (j + 1) f r s = r := by simp [atBlock, h]

theorem atBlock_of_present {j : Nat} (f : State → Result) (r : Result) {s : State} {b : Block}
    (h : s.peers[j]? = some b) :
    atBlock (j + 1) f r s = andThen (f (s.swap j b)) fun t => .next (t.unswap j) := by simp [atBlock, h]

theorem andThen_next {r : Result} {f : State → Result} {t : State} (h : andThen r f = .next t) :
    ∃ s, r = .next s ∧ f s = .next t := by
  cases r with
  | next s => exact ⟨s, rfl, h⟩
  | fault e => cases h
  | refused e => cases h

end Sys2Proof.Machine
end

