-- ==== Sys2Proof/Laws/Engine.lean ====
section
/-! SUPPORT. What an Engine step can do: its rule in each state, and that a disabled Engine does nothing. -/

namespace Sys2Proof.Machine

theorem engineStep_idle {s : State} (h : s.blk.fsm = .idle) : engineStep s = .next s := by simp [engineStep, h]

theorem engineStep_encRead {s : State} (h : s.blk.fsm = .encRead) : engineStep s = encReadStep s := by
  simp [engineStep, h]

theorem engineStep_encLit {s : State} (h : s.blk.fsm = .encLit) : engineStep s = encLitStep s := by
  simp [engineStep, h]

theorem engineStep_encFinZero {s : State} (h : s.blk.fsm = .encFinZero) : engineStep s = encFinZeroStep s := by
  simp [engineStep, h]

theorem engineStep_encFinFull {s : State} (h : s.blk.fsm = .encFinFull) : engineStep s = encFinFullStep s := by
  simp [engineStep, h]

theorem engineStep_encFinal {s : State} (h : s.blk.fsm = .encFinal) : engineStep s = encFinalStep s := by
  simp [engineStep, h]

theorem engineStep_encDelim {s : State} (h : s.blk.fsm = .encDelim) : engineStep s = encDelimStep s := by
  simp [engineStep, h]

theorem engineStep_decCode {s : State} (h : s.blk.fsm = .decCode) : engineStep s = decCodeStep s := by
  simp [engineStep, h]

theorem engineStep_decZero {s : State} (h : s.blk.fsm = .decZero) : engineStep s = decZeroStep s := by
  simp [engineStep, h]

theorem engineStep_decRead {s : State} (h : s.blk.fsm = .decRead) : engineStep s = decReadStep s := by
  simp [engineStep, h]

theorem engineStep_decWrite {s : State} (h : s.blk.fsm = .decWrite) : engineStep s = decWriteStep s := by
  simp [engineStep, h]

theorem engineStep_complete {s : State} (h : s.blk.fsm = .complete) : engineStep s = completeOp s := by
  simp [engineStep, h]

/-! What DEC_CODE does with a code byte (42_decoder.md R118). -/

theorem Block.takeCode_zero (b : Block) : b.takeCode 0 = { b with fsm := .complete } := rfl

theorem Block.takeCode_pending {c : Byte} {b : Block} (hc : c ≠ 0) (hz : b.zpend = true) :
    b.takeCode c = { b with block := c - 1, zpend := c != Config.fullCode, fsm := .decZero } := by
  unfold Block.takeCode
  rw [if_neg hc]
  simp [hz]

theorem Block.takeCode_none_pending {c : Byte} {b : Block} (hc : c ≠ 0) (hz : b.zpend = false) :
    b.takeCode c = ({ b with block := c - 1, zpend := c != Config.fullCode } : Block).toDecNext := by
  unfold Block.takeCode
  rw [if_neg hc]
  simp [hz]

/-- Running m + n Engine steps is running m and then n. -/
theorem engineRun_add (m n : Nat) (s : State) : engineRun (m + n) s = andThen (engineRun m s) (engineRun n) := by
  induction m generalizing s with
  | zero => simp [engineRun, andThen]
  | succ m ih =>
    rw [Nat.succ_add, engineRun, engineRun]
    cases engineStep s with
    | next t => exact ih t
    | fault r => rfl
    | refused r => rfl

/-- One Engine step is a run of one. -/
theorem engineRun_one (s : State) : engineRun 1 s = engineStep s := by
  simp only [engineRun]
  cases engineStep s <;> rfl

end Sys2Proof.Machine
end

