-- ==== Sys2Proof/Laws/PerInstr.lean ====
section
/-! SUPPORT. What holds of every instruction as syntax, one lemma per constructor. -/

namespace Sys2Proof.Laws

/-- Every instruction's transaction is a whole aligned word at an offset of 10_state.md R21: 32 bits wide, at a multiple
of 4 from the window's base, not beyond RESULT_LEN (20_memory.md R49). -/
def AlignedWord.Statement (i : Instr) : Prop :=
  ∀ base : Nat, (encode base i).width = 4 ∧ base ≤ (encode base i).addr ∧
    ((encode base i).addr - base) % 4 = 0 ∧ (encode base i).addr ≤ base + 0x14

/-- The bound from the offset alone. -/
theorem AlignedWord.of_offset {i : Instr} (off : Nat) (ha : ∀ base, (encode base i).addr = base + off)
    (h4 : off % 4 = 0) (hle : off ≤ 0x14) : AlignedWord.Statement i :=
  fun base => ⟨width_encode base i, by have := ha base; omega, by have := ha base; omega, by have := ha base; omega⟩

theorem AlignedWord.encode : AlignedWord.Statement .encode := of_offset 0x00 (fun _ => rfl) rfl (by decide)
theorem AlignedWord.decode : AlignedWord.Statement .decode := of_offset 0x00 (fun _ => rfl) rfl (by decide)
theorem AlignedWord.wrCmd (w : Word) : AlignedWord.Statement (.wrCmd w) := of_offset 0x00 (fun _ => rfl) rfl (by decide)
theorem AlignedWord.rdStatus : AlignedWord.Statement .rdStatus := of_offset 0x04 (fun _ => rfl) rfl (by decide)
theorem AlignedWord.wrSrcAddr (x : Word) : AlignedWord.Statement (.wrSrcAddr x) :=
  of_offset 0x08 (fun _ => rfl) rfl (by decide)
theorem AlignedWord.rdSrcAddr : AlignedWord.Statement .rdSrcAddr := of_offset 0x08 (fun _ => rfl) rfl (by decide)
theorem AlignedWord.wrSrcLen (x : Word) : AlignedWord.Statement (.wrSrcLen x) :=
  of_offset 0x0C (fun _ => rfl) rfl (by decide)
theorem AlignedWord.rdSrcLen : AlignedWord.Statement .rdSrcLen := of_offset 0x0C (fun _ => rfl) rfl (by decide)
theorem AlignedWord.wrDstAddr (x : Word) : AlignedWord.Statement (.wrDstAddr x) :=
  of_offset 0x10 (fun _ => rfl) rfl (by decide)
theorem AlignedWord.rdDstAddr : AlignedWord.Statement .rdDstAddr := of_offset 0x10 (fun _ => rfl) rfl (by decide)
theorem AlignedWord.rdResultLen : AlignedWord.Statement .rdResultLen := of_offset 0x14 (fun _ => rfl) rfl (by decide)

end Sys2Proof.Laws
end

