-- ==== Sys2Proof/Laws/Turns.lean ====
section
/-! SUPPORT. What a turn does: bringing an instance into focus and putting it back, the reset event, which turn is next. -/

namespace Sys2Proof.Machine

/-! Focus. -/

/-- Putting back after an action that kept the other instances in place. -/
theorem State.unswap_of_peers {s t : State} {j : Nat} {b : Block} (h : s.peers[j]? = some b)
    (ht : t.peers = (s.swap j b).peers) :
    t.unswap j = { t with blk := s.blk, peers := s.peers.set j t.blk } := by
  have hj : j < s.peers.length := by
    rw [List.getElem?_eq_some_iff] at h; exact h.1
  simp [State.unswap, ht, List.getElem?_set_self hj, State.swap, List.set_set]

/-- Putting back what was there changes no list. -/
theorem set_of_getElem? {α : Type} {l : List α} {j : Nat} {b : α} (h : l[j]? = some b) : l.set j b = l := by
  obtain ⟨hj, rfl⟩ := List.getElem?_eq_some_iff.mp h
  exact List.set_getElem_self hj

/-! The register port. -/

/-- A violation at the window in focus is recorded (40_command.md R84). -/
theorem windowStep_of_error {x : Bus} {s : State} {e : DecodeError} (h : decode s.blk.port.base x = .error e) :
    windowStep x s = .next (s.record .hostProtocol) := by simp [windowStep, h]

theorem windowStep_of_ok {x : Bus} {s : State} {i : Instr} (h : decode s.blk.port.base x = .ok i) :
    windowStep x s = exec i s := by simp [windowStep, h]

@[simp] theorem State.noteBeside_blk (s : State) (x : Bus) : (s.noteBeside x).blk = s.blk := rfl
@[simp] theorem State.noteBeside_peers (s : State) (x : Bus) : (s.noteBeside x).peers = s.peers := rfl
@[simp] theorem State.noteBeside_mem (s : State) (x : Bus) : (s.noteBeside x).mem = s.mem := rfl
@[simp] theorem State.noteBeside_hostQueue (s : State) (x : Bus) : (s.noteBeside x).hostQueue = s.hostQueue := rfl
@[simp] theorem State.noteBeside_reads (s : State) (x : Bus) : (s.noteBeside x).reads = s.reads := rfl
@[simp] theorem State.noteBeside_sched (s : State) (x : Bus) : (s.noteBeside x).sched = s.sched := rfl
@[simp] theorem State.noteBeside_draws (s : State) (x : Bus) : (s.noteBeside x).draws = s.draws := rfl
@[simp] theorem State.noteBeside_platform (s : State) (x : Bus) : (s.noteBeside x).platform = s.platform := rfl

/-- The one thing an access beside a window can record. -/
theorem State.noteBeside_faults (s : State) (x : Bus) :
    (s.noteBeside x).faults =
      if s.platform.sharedMap && s.touchesBeside x then s.faults.set .hostRace else s.faults := rfl

/-- The bytes beside the windows that break a duty, one by one. -/
theorem State.touchesBeside_iff {s : State} {x : Bus} :
    s.touchesBeside x = true ↔ ∃ a, x.addr ≤ a ∧ a < x.addr + x.width ∧ s.windowOf (a, a + 1) = none ∧
      breaksDuty (s.blk :: s.peers) (busKind x) (a, a + 1) = true := by
  simp [State.touchesBeside, List.mem_range'_1, and_assoc]

/-- An access that lies inside a window touches no cell beside it. -/
theorem State.noteBeside_of_inside {s : State} {x : Bus} {b : Block} (hb : b ∈ s.blk :: s.peers)
    (hlo : b.port.base ≤ x.addr) (hhi : x.addr + x.width ≤ b.port.base + Config.windowBytes) : s.noteBeside x = s := by
  have : s.touchesBeside x = false := by
    rw [Bool.eq_false_iff]
    intro h
    obtain ⟨a, h1, h2, h3, -⟩ := State.touchesBeside_iff.mp h
    have h4 := List.findIdx?_eq_none_iff.mp h3 b hb
    rw [Region.meets_eq_false_iff] at h4
    exact h4 ⟨by dsimp; omega, by simp [windowRegion, Config.windowBytes], by simp only [windowRegion]; omega,
      by simp only [windowRegion]; omega⟩
  simp [State.noteBeside, State.recordIf, this]

/-- Where the maps are apart, there is no memory cell beside a window. -/
theorem State.noteBeside_of_apart {s : State} (x : Bus) (h : s.platform.sharedMap = false) : s.noteBeside x = s := by
  simp [State.noteBeside, State.recordIf, h]

/-- An access that reaches instance `k` acts there. -/
theorem regAccess_of_window {x : Bus} {s : State} {k : Nat} (h : s.windowOf (busRegion x) = some k) :
    regAccess x s = atBlock k (windowStep x) (.fault .noWindow) (s.noteBeside x) := by simp [regAccess, h]

/-- The Host's next register access. -/
theorem hostTurn_of_reg {x : Bus} {q : List HostAction} {s : State} (h : s.hostQueue = .reg x :: q) :
    hostTurn s = regAccess x (s.withQueue q) := by
  unfold hostTurn; rw [h]

/-- In a shared map a memory access that touches a window is a register access (log 16). -/
theorem hostTurn_of_mem_at_window {x : Bus} {q : List HostAction} {s : State} {k : Nat}
    (h : s.hostQueue = .mem x :: q) (hp : s.platform.sharedMap = true) (hk : s.windowOf (busRegion x) = some k) :
    hostTurn s = regAccess x (s.withQueue q) := by
  unfold hostTurn; rw [h]; simp [hp, hk]

/-- The Host's next memory access where the maps are apart. -/
theorem hostTurn_of_mem {x : Bus} {q : List HostAction} {s : State} (h : s.hostQueue = .mem x :: q)
    (hp : s.platform.sharedMap = false) : hostTurn s = memAccess x q s := by
  unfold hostTurn; rw [h]; simp [hp]

/-! The reset event (70_reset_and_hazards.md R155). -/

@[simp] theorem Block.resetEvent_port (n : Nat) (b : Block) : (b.resetEvent n).port = b.port := rfl
@[simp] theorem Block.resetEvent_fsm (n : Nat) (b : Block) : (b.resetEvent n).fsm = .idle := rfl
@[simp] theorem Block.resetEvent_resultLen (n : Nat) (b : Block) : (b.resetEvent n).resultLen = 0 := rfl
@[simp] theorem Block.resetEvent_srcAddr (n : Nat) (b : Block) : (b.resetEvent n).srcAddr = 0 := rfl
@[simp] theorem Block.resetEvent_srcLen (n : Nat) (b : Block) : (b.resetEvent n).srcLen = 0 := rfl
@[simp] theorem Block.resetEvent_dstAddr (n : Nat) (b : Block) : (b.resetEvent n).dstAddr = 0 := rfl

@[simp] theorem Block.resetEvent_statusWord (n : Nat) (b : Block) : (b.resetEvent n).statusWord = 0 := by
  simp [Block.statusWord, Block.busy, Block.resetEvent, Block.reset]

/-- A reset leaves every buffer duty open (20_memory.md R63). -/
@[simp] theorem Block.resetEvent_duties (n : Nat) (b : Block) : (b.resetEvent n).duties = b.duties := rfl

/-! Whose turn it is. -/

theorem step_of_listed {s : State} {t : Turn} {ts : List Turn} (h : s.sched = t :: ts) :
    step s = runTurn t (s.withSched ts) := by simp [step, takeTurn, h]

theorem step_of_none_listed {s : State} (h : s.sched = []) : step s = runTurn (defaultTurn s) s := by
  simp [step, takeTurn, h]

theorem defaultTurn_of_enabled {s : State} (h : s.blk.enabled = true) : defaultTurn s = .engine 0 := by
  simp [defaultTurn, List.findIdx?_cons, h]

theorem defaultTurn_of_none_enabled {s : State} (h : ∀ b ∈ s.blk :: s.peers, b.enabled = false) :
    defaultTurn s = .host := by
  simp only [defaultTurn, List.findIdx?_eq_none_iff.mpr h]

end Sys2Proof.Machine
end

