-- ==== Sys2Proof/Tests/Slice0.lean ====
section
/-! SUPPORT. Small tests, each with its source, and the witnesses of the statements' hypotheses. -/

namespace Sys2Proof.Tests

open Sys2Proof.Machine

/-! Well-formedness: the one check, and an ill-formed term it refuses. -/

theorem test_wellFormed_refuses_wrCmd_of_a_command_word :
    (Instr.wrCmd 1).wellFormed = false ∧ (Instr.wrCmd 2).wellFormed = false ∧ (Instr.wrCmd 3).wellFormed = true := by
  decide

/-! Decoding: transactions written out from the tables of 30_encoding.md R66, R70, R72 and 10_state.md R21. -/

/-- `WR SRC_ADDR, 0x1000` is a write of 0x00001000 to B + 0x08 (95_test_vectors.md P1); lanes of 20_memory.md R48. -/
theorem test_decode_register_writes :
    decode 0x80 (.wr 0x88 [0x00, 0x10, 0x00, 0x00]) = .ok (.wrSrcAddr 0x00001000) ∧
    decode 0x80 (.wr 0x8C [0x04, 0x03, 0x02, 0x01]) = .ok (.wrSrcLen 0x01020304) ∧
    decode 0x80 (.wr 0x90 [0x00, 0x20, 0x00, 0x80]) = .ok (.wrDstAddr 0x80002000) := by decide

theorem test_decode_register_reads :
    decode 0x80 (.rd 0x84 4) = .ok .rdStatus ∧ decode 0x80 (.rd 0x88 4) = .ok .rdSrcAddr ∧
    decode 0x80 (.rd 0x8C 4) = .ok .rdSrcLen ∧ decode 0x80 (.rd 0x90 4) = .ok .rdDstAddr ∧
    decode 0x80 (.rd 0x94 4) = .ok .rdResultLen := by decide

/-- `ENCODE` writes 0x00000001 to B + 0x00, `DECODE` 0x00000002; X2 to X4 of 95_test_vectors.md are illegal words. -/
theorem test_decode_command_writes :
    decode 0x80 (.wr 0x80 [0x01, 0x00, 0x00, 0x00]) = .ok .encode ∧
    decode 0x80 (.wr 0x80 [0x02, 0x00, 0x00, 0x00]) = .ok .decode ∧
    decode 0x80 (.wr 0x80 [0x03, 0x00, 0x00, 0x00]) = .ok (.wrCmd 0x00000003) ∧
    decode 0x80 (.wr 0x80 [0x01, 0x01, 0x00, 0x00]) = .ok (.wrCmd 0x00000101) ∧
    decode 0x80 (.wr 0x80 [0x02, 0x00, 0x00, 0x80]) = .ok (.wrCmd 0x80000002) := by decide

/-- The keys 30_encoding.md R72 lists as violations, and accesses that are no aligned words. -/
theorem test_decode_rejects_by_name :
    decode 0x80 (.rd 0x80 4) = .error .readOfCmd ∧ decode 0x80 (.wr 0x84 [0, 0, 0, 0]) = .error .writeOfStatus ∧
    decode 0x80 (.wr 0x94 [0, 0, 0, 0]) = .error .writeOfResultLen ∧ decode 0x80 (.rd 0x98 4) = .error .reservedOffset ∧
    decode 0x80 (.wr 0x9C [0, 0, 0, 0]) = .error .reservedOffset ∧ decode 0x80 (.rd 0x84 2) = .error .notWord ∧
    decode 0x80 (.rd 0x86 4) = .error .misaligned ∧ decode 0x80 (.rd 0x7E 4) = .error .outsideWindow ∧
    decode 0x80 (.rd 0xA0 4) = .error .outsideWindow := by decide

/-- The words of the opcode table, bit 0 the least significant (spec/opcode_table.json). -/
theorem test_decodeTableWord_rows :
    decodeTableWord 32 0x00000001 = some .encode ∧ decodeTableWord 32 0x00000002 = some .decode ∧
    decodeTableWord 8 0x20 = some (.wrCmd 0) ∧ decodeTableWord 8 0x28 = some (.wrSrcAddr 0) ∧
    decodeTableWord 8 0x14 = some .rdResultLen ∧ decodeTableWord 8 0x60 = none := by decide

/-! Sample states. The payload `11 22 00 33` at 0x1000, destination 0x2000 (95_test_vectors.md P1, V5). -/

def payload : Memory := [(0x1000, 0x11), (0x1001, 0x22), (0x1003, 0x33)]

/-- The frame `03 11 22 02 33 00` at 0x1000 (95_test_vectors.md W5). -/
def frame : Memory := [(0x1000, 0x03), (0x1001, 0x11), (0x1002, 0x22), (0x1003, 0x02), (0x1004, 0x33)]

/-- Programmed and idle. -/
def idleState (sa sl da : Word) (m : Memory) : State :=
  { State.reset with mem := m, blk := { State.reset.blk with srcAddr := sa, srcLen := sl, dstAddr := da } }

/-- Busy with an operation on [0x1000, 0x1000 + l) and 0x2000, in the state `fsm`. -/
def busyState (cmd : Command) (l : Word) (fsm : Fsm) (i cur : Word) (m : Memory) : State :=
  { State.reset with
    mem := m
    blk := { State.reset.blk with
      srcAddr := 0x1000, srcLen := l, dstAddr := 0x2000, fsm := fsm, S := 0x1000, L := l, D := 0x2000, i := i, cur := cur
      duties := [{ cmd := cmd, s := 0x1000, l := l, d := 0x2000 }] } }

/-- The encoder's registers on top of `busyState`. -/
def encState (l : Word) (fsm : Fsm) (i cur codep : Word) (code byte : Byte) : State :=
  let s := busyState .encode l fsm i cur payload
  s.withBlk { s.blk with codep := codep, code := code, byte := byte }

/-- The decoder's registers on top of `busyState`. -/
def decState (fsm : Fsm) (i cur : Word) (block : Byte) (zpend : Bool) (v : Byte) : State :=
  let s := busyState .decode 6 fsm i cur frame
  s.withBlk { s.blk with block := block, zpend := zpend, v := v }

/-- A Host with one action, whose turn it is. -/
def withAction (s : State) (x : HostAction) : State := { s with hostQueue := [x], sched := [.host] }

/-- A second instance, its window at 0x50000000. -/
def withPeer (s : State) : State := { s with peers := [Block.reset { base := 0x50000000, denied := [] }] }

/-- What a result shows of its next state. -/
def seen {α : Type} (r : Result) (f : State → α) : Option α :=
  match r with
  | .next s => some (f s)
  | .fault _ => none
  | .refused _ => none

/-! Command writes. -/

/-- X1 to X8 of 95_test_vectors.md: the STATUS word after one CMD write. -/
theorem test_command_status_illegal_and_null :
    seen (exec (.wrCmd 0) (idleState 0x1000 4 0x2000 [])) (·.blk.statusWord) = some 0x16 ∧
    seen (exec (.wrCmd 3) (idleState 0x1000 4 0x2000 [])) (·.blk.statusWord) = some 0x16 ∧
    seen (exec (.wrCmd 0) (idleState 0 4 0 [])) (·.blk.statusWord) = some 0x16 ∧
    seen (exec .encode (idleState 0 0 0x2000 [])) (·.blk.statusWord) = some 0x26 ∧
    seen (exec .decode (idleState 0x1000 4 0 [])) (·.blk.statusWord) = some 0x26 ∧
    seen (exec .encode (idleState 0 0x20 0xFFFFFFFE [])) (·.blk.statusWord) = some 0x26 := by decide

/-- X9 to X13 and X21 of 95_test_vectors.md. -/
theorem test_command_status_range :
    seen (exec .encode (idleState 0xFFFFFFF0 0x20 0x2000 [])) (·.blk.statusWord) = some 0x36 ∧
    seen (exec .encode (idleState 0xFFFFFFF0 0x10 0x2000 [])) (·.blk.statusWord) = some 0x01 ∧
    seen (exec .encode (idleState 0x1000 0 0xFFFFFFFE [])) (·.blk.statusWord) = some 0x01 ∧
    seen (exec .encode (idleState 0x1000 1 0xFFFFFFFE [])) (·.blk.statusWord) = some 0x36 ∧
    seen (exec .decode (idleState 0x1000 2 0xFFFFFFFE [])) (·.blk.statusWord) = some 0x01 ∧
    seen (exec .encode (idleState 0xFFFFFFF0 0x20 0xFFFFFFF8 [])) (·.blk.statusWord) = some 0x36 := by decide

/-- X15 to X20 of 95_test_vectors.md. -/
theorem test_command_status_overlap :
    seen (exec .encode (idleState 0x1000 4 0x1003 [])) (·.blk.statusWord) = some 0x46 ∧
    seen (exec .encode (idleState 0x1000 4 0x1004 [])) (·.blk.statusWord) = some 0x01 ∧
    seen (exec .encode (idleState 0x1000 4 0x0FFA [])) (·.blk.statusWord) = some 0x46 ∧
    seen (exec .encode (idleState 0x1000 4 0x0FF9 [])) (·.blk.statusWord) = some 0x01 ∧
    seen (exec .decode (idleState 0x1000 0 0x1000 [])) (·.blk.statusWord) = some 0x01 ∧
    seen (exec .decode (idleState 0x1000 4 0x1000 [])) (·.blk.statusWord) = some 0x46 := by decide

/-- The example of 40_command.md R82. -/
theorem test_accept_encode :
    seen (exec .encode (idleState 0x1000 4 0x2000 payload)) (fun t => (t.blk.fsm, t.blk.cur, t.blk.L)) =
      some (.encRead, 1, 4) := by decide

/-- L = 0 (42_decoder.md R124). -/
theorem test_accept_decode_empty :
    seen (exec .decode (idleState 0x1000 0 0x2000 [])) (fun t => (t.blk.fsm, t.blk.cur)) = some (.complete, 0) := by decide

/-- Y3 of 95_test_vectors.md. -/
theorem test_command_while_busy :
    seen (exec .encode (encState 4 .encRead 0 1 0 1 0)) (fun t => (t.faults.hostProtocol, t.blk.fsm, t.blk.i)) =
      some (true, .encRead, 0) := by decide

/-! Register accesses. -/

/-- The example of 40_command.md R76, and Y5 of 95_test_vectors.md. -/
theorem test_wrSrcLen_while_busy :
    seen (exec (.wrSrcLen 9) (encState 4 .encRead 0 1 0 1 0)) (fun t => (t.blk.srcLen, t.blk.L)) = some (9, 4) := by decide

theorem test_wrSrcAddr_wrDstAddr :
    seen (exec (.wrSrcAddr 0x1234) State.reset) (fun t => (t.blk.srcAddr, t.blk.dstAddr)) = some (0x1234, 0) ∧
    seen (exec (.wrDstAddr 0x1234) State.reset) (fun t => (t.blk.srcAddr, t.blk.dstAddr)) = some (0, 0x1234) := by decide

theorem test_parameter_reads :
    seen (exec .rdSrcAddr (idleState 0x1000 4 0x2000 [])) (·.reads) = some [.reg 0x1000] ∧
    seen (exec .rdSrcLen (idleState 0x1000 4 0x2000 [])) (·.reads) = some [.reg 4] ∧
    seen (exec .rdDstAddr (idleState 0x1000 4 0x2000 [])) (·.reads) = some [.reg 0x2000] := by decide

/-- 40_command.md R80: 1 while busy. -/
theorem test_rdStatus_busy : seen (exec .rdStatus (encState 4 .encRead 0 1 0 1 0)) (·.reads) = some [.reg 1] := by decide

/-- 10_state.md R27: 0 after reset. -/
theorem test_rdResultLen_reset : seen (exec .rdResultLen State.reset) (·.reads) = some [.reg 0] := by decide

/-! Engine steps: rows of the V5 and W5 access tables of 95_test_vectors.md. -/

/-- V5 steps 1, 2 and 5. -/
theorem test_encode_steps :
    seen (engineStep (encState 4 .encRead 0 1 0 1 0)) (fun t => (t.blk.i, t.blk.byte, t.blk.fsm)) =
      some (1, 0x11, .encLit) ∧
    seen (engineStep (encState 4 .encLit 1 1 0 1 0x11)) (fun t => (t.blk.cur, t.blk.code, t.mem.readByte 0x2001)) =
      some (2, 2, 0x11) ∧
    seen (engineStep (encState 4 .encRead 2 3 0 3 0x22)) (fun t => (t.blk.i, t.blk.fsm)) = some (3, .encFinZero) := by
  decide

/-- V5 steps 6, 9 and 10. -/
theorem test_encode_closing_steps :
    seen (engineStep (encState 4 .encFinZero 3 3 0 3 0))
      (fun t => (t.blk.code, t.blk.codep, t.blk.cur, t.mem.readByte 0x2000)) = some (1, 3, 4, 3) ∧
    seen (engineStep (encState 4 .encFinal 4 5 3 2 0x33)) (fun t => (t.mem.readByte 0x2003, t.blk.fsm)) =
      some (2, .encDelim) ∧
    seen (engineStep (encState 4 .encDelim 4 5 3 2 0x33)) (fun t => (t.blk.cur, t.mem.readByte 0x2005)) =
      some (6, 0) := by decide

/-- V11: ENC_FIN_FULL at the end of the input, codep = 255 and cur stays; V12: with input remaining, cur moves on. -/
theorem test_encode_full_block :
    seen (engineStep (encState 254 .encFinFull 254 255 0 255 1))
      (fun t => (t.blk.codep, t.blk.cur, t.blk.fsm, t.mem.readByte 0x2000)) = some (255, 255, .encFinal, 0xFF) ∧
    seen (engineStep (encState 255 .encFinFull 254 255 0 255 0xFE)) (fun t => (t.blk.codep, t.blk.cur, t.blk.fsm)) =
      some (255, 256, .encRead) := by decide

/-- W5 steps 1, 6 and 10. -/
theorem test_decode_code_steps :
    seen (engineStep (decState .decCode 0 0 0 false 0)) (fun t => (t.blk.i, t.blk.block, t.blk.zpend, t.blk.fsm)) =
      some (1, 2, true, .decRead) ∧
    seen (engineStep (decState .decCode 3 2 0 true 0)) (fun t => (t.blk.i, t.blk.block, t.blk.zpend, t.blk.fsm)) =
      some (4, 1, true, .decZero) ∧
    seen (engineStep (decState .decCode 5 4 0 true 0)) (fun t => (t.blk.i, t.blk.fsm)) = some (6, .complete) := by decide

/-- W5 steps 2, 3, 7 and 11. -/
theorem test_decode_data_steps :
    seen (engineStep (decState .decRead 1 0 2 true 0)) (fun t => (t.blk.i, t.blk.v, t.blk.fsm)) =
      some (2, 0x11, .decWrite) ∧
    seen (engineStep (decState .decWrite 2 0 2 true 0x11)) (fun t => (t.blk.cur, t.blk.block, t.mem.readByte 0x2000)) =
      some (1, 1, 0x11) ∧
    seen (engineStep (decState .decZero 4 2 1 true 0)) (fun t => (t.blk.cur, t.blk.fsm)) = some (3, .decRead) ∧
    seen (engineStep (decState .complete 6 4 0 true 0)) (fun t => (t.blk.resultLen, t.blk.statusWord)) =
      some (4, 2) := by decide

/-! The transforms: V1, V5, V8, V11 (end) and W7, W13, W19 of 95_test_vectors.md. -/

theorem test_encodeFn :
    encodeFn [] = [1, 0] ∧ encodeFn [0x11, 0x22, 0, 0x33] = [3, 0x11, 0x22, 2, 0x33, 0] ∧
    encodeFn [5, 0, 0, 7] = [2, 5, 1, 2, 7, 0] := by decide

theorem test_decodeFn :
    decodeFn [1, 1, 1, 1, 0, 0xFF, 0xFF] = [0, 0, 0] ∧ decodeFn [3, 0x11, 0, 2, 0x33, 0] = [0x11, 0, 0, 0x33] ∧
    decodeFn [2, 0x11, 0xFF, 0x22, 0] = [0x11, 0, 0x22, 0] := by decide

/-! Turns. -/

/-- Y7 of 95_test_vectors.md, the visible part: a reset during an operation. -/
theorem test_reset_turn :
    seen (runTurn (.reset 0) (encState 4 .encRead 3 4 3 1 0)) (fun t => (t.blk.fsm, t.blk.resultLen, t.blk.srcLen)) =
      some (.idle, 0, 0) := by decide

/-- Y8 of 95_test_vectors.md. -/
theorem test_read_of_cmd_is_a_violation :
    seen (windowStep (.rd 0x40000000 4) State.reset) (fun t => (t.faults.hostProtocol, t.reads)) = some (true, []) := by
  decide

/-- 40_command.md R84 at the machine's step: a read of CMD, a write to STATUS, and in a shared map a byte store at 0x18. -/
theorem test_step_records_violations :
    step (withAction State.reset (.reg (.rd 0x40000000 4))) =
      .next { State.reset with faults := { hostProtocol := true, hostRace := false } } ∧
    step (withAction (withPeer State.reset) (.reg (.wr 0x50000004 [0, 0, 0, 0]))) =
      .next { withPeer State.reset with faults := { hostProtocol := true, hostRace := false } } ∧
    seen (step { withAction State.reset (.mem (.wr 0x40000018 [7])) with
      platform := { sharedMap := true, hostDenied := [] } }) (fun t => (t.faults.hostProtocol, t.mem)) =
      some (true, []) := ⟨rfl, rfl, by decide⟩

/-- 20_memory.md R63: after a reset during an operation a store into its destination is a race until STATUS is read. -/
theorem test_duty_outlives_a_reset :
    let s := { encState 4 .encRead 3 4 3 1 0 with sched := [.reset 0, .host], hostQueue := [.mem (.wr 0x2006 [7])] }
    let r := { encState 4 .encRead 3 4 3 1 0 with
      sched := [.reset 0, .host, .host], hostQueue := [.reg (.rd 0x40000004 4), .mem (.wr 0x2006 [7])] }
    seen (core.run 2 s) (·.faults.hostRace) = some true ∧ seen (core.run 3 r) (·.faults.hostRace) = some false := by
  decide

/-- 70_reset_and_hazards.md R162 in a shared map: a store to the last window byte and the first byte of a busy destination
beside it (0x40000020) breaks both rules, one inside the window only the register rule, a register access likewise. -/
theorem test_access_across_window_and_busy_buffer :
    let u := { cmd := .encode, s := 0x1000, l := 4, d := 0x40000020 : Duty }
    let e := { (encState 4 .encRead 0 1 0 1 0) with platform := { sharedMap := true, hostDenied := [] } }
    let s := { e with blk := { e.blk with D := 0x40000020, duties := [u] } }
    seen (step (withAction s (.mem (.wr 0x4000001F [7, 7])))) (·.faults) = some { hostProtocol := true, hostRace := true } ∧
    seen (step (withAction s (.reg (.rd 0x4000001F 2)))) (·.faults) = some { hostProtocol := true, hostRace := true } ∧
    seen (step (withAction s (.mem (.wr 0x4000001E [7, 7])))) (·.faults) = some { hostProtocol := true, hostRace := false } ∧
    seen (step (withAction s (.mem (.rd 0x40000004 4)))) (·.faults) =
      some { hostProtocol := false, hostRace := false } := by decide

/-- A word of the table placed after reset is what the next step runs. -/
theorem test_step_runs_placed_word :
    seen (step (State.reset.withFetchWord 32 1)) (·.blk.statusWord) = some 0x26 ∧
    seen (step (State.reset.withFetchWord 8 0x20)) (·.blk.statusWord) = some 0x16 ∧
    seen (step (State.reset.withFetchWord 8 0x04)) (·.reads) = some [.reg 0] := by decide

/-- 20_memory.md R63: a Host store into the destination while busy is a race. -/
theorem test_host_store_into_busy_destination :
    seen (hostTurn { encState 4 .encRead 0 1 0 1 0 with hostQueue := [.mem (.wr 0x2006 [7])] }) (·.faults.hostRace) =
      some true ∧
    seen (hostTurn { encState 4 .encRead 0 1 0 1 0 with hostQueue := [.mem (.wr 0x2007 [7])] }) (·.faults.hostRace) =
      some false := by decide

/-- An Engine step of another instance leaves the one in focus alone (60_exceptions.md R151). -/
theorem test_peer_engine_turn :
    seen (runTurn (.engine 1) { State.reset with mem := payload, peers := [(encState 4 .encRead 0 1 0 1 0).blk] })
      (fun t => (t.blk.fsm, t.peers.map Block.fsm)) = some (.idle, [.encLit]) := by decide

/-! Witnesses: states and operands that meet the hypotheses of each statement, one clause at a time where a statement has
several. -/

theorem next_of_seen {r : Result} (h : seen r (fun _ => true) = some true) : ∃ t, r = .next t := by
  cases r with
  | next t => exact ⟨t, rfl⟩
  | fault e => simp [seen] at h
  | refused e => simp [seen] at h

/-- The invariant of a state with one instance, part by part. -/
def invCheck (s : State) : Bool :=
  decide s.blk.statusInv && decide s.blk.latchInv && decide s.blk.encReadInv && decide s.blk.encByteInv &&
    decide s.blk.encFullInv && decide s.blk.encEndInv && decide s.blk.decInv && s.peers.isEmpty && s.mem.wf

theorem inv_of_check {s : State} (h : invCheck s = true) : s.inv := by
  simp only [invCheck, Bool.and_eq_true, decide_eq_true_eq, List.isEmpty_iff] at h
  obtain ⟨⟨⟨⟨⟨⟨⟨⟨h1, h2⟩, h3⟩, h4⟩, h5⟩, h6⟩, h7⟩, h8⟩, h9⟩ := h
  exact ⟨⟨h1, h2, ⟨h3, h4, h5, h6⟩, h7⟩, by simp [h8], h9⟩

/-- An Engine whose requests of one kind are not admitted. -/
def denyAll (s : State) (kind : AccessKind) : State :=
  { s with blk := { s.blk with port := { s.blk.port with denied := [{ kind := kind, lo := 0, hi := 2 ^ 32 }] } } }

theorem witness_DecodeOfEncodeIsTheInstruction : (Instr.wrCmd 0xFFFFFFFF).wellFormed = true := by decide

theorem witness_EncodeOfDecodedAccessIsTheAccess : decode 0 (.wr 0 [0xFF, 0xFF, 0xFF, 0xFF]) = .ok (.wrCmd 0xFFFFFFFF) := by
  decide

/-- The violations of one access, at the bounds of their ranges. -/
theorem witness_ProtocolViolationsOnlyRecordHostProtocol :
    (Bus.rd (0x40000000 + 0x18) 4).addr = State.reset.blk.port.base + 0x18 ∧
    (Bus.wr 0x4000001C []).addr = State.reset.blk.port.base + 0x1C ∧
    Bus.rd 0x40000000 4 = .rd State.reset.blk.port.base 4 ∧
    Bus.wr 0x40000004 [0, 0, 0, 0] = .wr (State.reset.blk.port.base + 0x04) [0, 0, 0, 0] ∧
    Bus.wr 0x40000014 [0, 0, 0, 0] = .wr (State.reset.blk.port.base + 0x14) [0, 0, 0, 0] ∧
    (Bus.rd 0x40000004 2).width ≠ 4 ∧ (Bus.rd 0x3FFFFFFD 4).addr < State.reset.blk.port.base ∧
    ((Bus.rd 0x40000005 4).addr - State.reset.blk.port.base) % 4 ≠ 0 ∧
    (encState 4 .encRead 0 1 0 1 0).blk.busy = true ∧
    { State.reset with faults := { hostProtocol := true, hostRace := false } }.faults.hostProtocol = true := by decide

/-- A Host turn with each of them, in focus, at another instance and in a shared map. -/
theorem witness_ProtocolViolationsOnlyRecordHostProtocol_turns :
    let p := Block.reset { base := 0x50000000, denied := [] }
    let s := withAction (withPeer State.reset) (.reg (.rd 0x50000000 4))
    let m := { withAction State.reset (.mem (.rd 0x3FFFFFFD 4)) with platform := { sharedMap := true, hostDenied := [] } }
    let c := withAction (encState 4 .encRead 0 1 0 1 0) (.reg (.wr 0x40000000 [1, 0, 0, 0]))
    s.sched = [.host] ∧ s.hostQueue = [.reg (.rd 0x50000000 4)] ∧ s.windowOf (busRegion (.rd 0x50000000 4)) = some 1 ∧
    (s.blk :: s.peers)[1]? = some p ∧ Bus.rd 0x50000000 4 = .rd p.port.base 4 ∧
    s.windowOf (busRegion (.rd 0x40000000 4)) = some 0 ∧ s.windowOf (busRegion (.wr 0x40000004 [0, 0, 0, 0])) = some 0 ∧
    s.windowOf (busRegion (.wr 0x40000014 [0, 0, 0, 0])) = some 0 ∧ s.windowOf (busRegion (.rd 0x4000001C 4)) = some 0 ∧
    s.windowOf (busRegion (.rd 0x4000001F 1)) = some 0 ∧ s.windowOf (busRegion (.rd 0x4000001D 4)) = some 0 ∧
    m.platform.sharedMap = true ∧ m.windowOf (busRegion (.rd 0x3FFFFFFD 4)) = some 0 ∧
    (Bus.rd 0x3FFFFFFD 4).addr < m.blk.port.base ∧
    c.blk.busy = true ∧ c.hostQueue = [.reg (.wr c.blk.port.base [1, 0, 0, 0])] ∧
    c.windowOf (busRegion (.wr 0x40000000 [1, 0, 0, 0])) = some 0 := by decide

theorem witness_StepRunsTheDecodedAccess :
    (withAction State.reset (.reg (.rd 0x40000014 4))).hostQueue = [.reg (.rd 0x40000014 4)] ∧
    (withAction State.reset (.reg (.rd 0x40000014 4))).sched = [.host] ∧
    decode State.reset.blk.port.base (.rd 0x40000014 4) = .ok .rdResultLen := by decide

theorem witness_StepRunsTheDecodedAccess_peer :
    let p := Block.reset { base := 0x50000000, denied := [] }
    let s := { withAction State.reset (.reg (.rd 0x50000004 4)) with peers := [p] }
    s.peers[0]? = some p ∧ s.windowOf (busRegion (.rd 0x50000004 4)) = some 1 ∧
    decode p.port.base (.rd 0x50000004 4) = .ok .rdStatus := by decide

theorem witness_PlacedTableWordIsRunNext : decodeTableWord 8 0x30 = some (.wrDstAddr 0) := by decide

theorem witness_StatusWordTakesOnlySevenValues :
    State.reset.blk.statusInv ∧ (encState 4 .encRead 0 1 0 1 0).blk.statusInv ∧
    ({ State.reset.blk with done := true } : Block).statusInv ∧
    ({ State.reset.blk with done := true, err := true, errcode := 4 } : Block).statusInv :=
  ⟨by decide, by decide, by decide, by decide⟩

theorem witness_ResultLenReadReturnsResultOrFreeValue :
    State.reset.blk.fsm = .idle ∧ (encState 4 .encRead 0 1 0 1 0).blk.fsm ≠ .idle := by decide

theorem witness_IllegalWordIsRejectedWithIllegalCmd :
    State.reset.blk.fsm = .idle ∧ (0x80000002#32 ≠ 0x00000001#32) ∧ (0x80000002#32 ≠ 0x00000002#32) := by decide

theorem witness_RejectionWritesStatusAndResultLenOnly :
    (idleState 0 4 0x2000 []).blk.fsm = .idle ∧ check .encode 0 4 0x2000 = .nullBuffer ∧
    check .decode 0xFFFFFFF0 0x11 0x2000 = .addrRange ∧ check .encode 0x1000 4 0x1003 = .overlap := by decide

/-- Each clause at a boundary: the source ends exactly at 2^32 and one byte past it; the regions touch and meet. -/
theorem witness_AcceptanceCheckFollowsItsOrder :
    (0xFFFFFFF0#32).toNat + (0x10#32).toNat ≤ 2 ^ 32 ∧ (0xFFFFFFF0#32).toNat + (0x11#32).toNat > 2 ^ 32 ∧
    (0x1000#32).toNat < (0x0FFA#32).toNat + 7 ∧ ¬ (0x1000#32).toNat < (0x0FF9#32).toNat + 7 ∧
    7 = (if Command.encode = .encode then (4#32).toNat + ((4#32).toNat + 253) / 254 + 2 else (4#32).toNat) := by decide

theorem witness_AcceptedEncodeLatchesAndStarts :
    (idleState 0x1000 4 0x1004 []).blk.fsm = .idle ∧ check .encode 0x1000 4 0x1004 = .none := by decide

theorem witness_AcceptedDecodeLatchesAndStarts :
    (idleState 0x1000 0 0x1000 []).blk.fsm = .idle ∧ check .decode 0x1000 0 0x1000 = .none := by decide

theorem witness_CommandWhileBusyOnlyRecordsTheFault : (encState 4 .encRead 0 1 0 1 0).blk.fsm ≠ .idle := by decide

theorem witness_EncReadTakesTheNextSourceByte :
    (encState 4 .encRead 3 4 3 1 0).inv ∧ (encState 4 .encRead 3 4 3 1 0).blk.fsm = .encRead ∧
    memAdmit (encState 4 .encRead 3 4 3 1 0).blk.port.denied .read 0x1003 = true :=
  ⟨inv_of_check (by decide), by decide, by decide⟩

theorem witness_EncLitCopiesTheLiteral :
    (encState 254 .encLit 254 254 0 254 1).inv ∧ (encState 254 .encLit 254 254 0 254 1).blk.fsm = .encLit ∧
    memAdmit (encState 254 .encLit 254 254 0 254 1).blk.port.denied .write 0x20FE = true :=
  ⟨inv_of_check (by decide), by decide, by decide⟩

theorem witness_EncFinZeroClosesTheBlock :
    (encState 4 .encFinZero 3 3 0 3 0).inv ∧ (encState 4 .encFinZero 3 3 0 3 0).blk.fsm = .encFinZero ∧
    memAdmit (encState 4 .encFinZero 3 3 0 3 0).blk.port.denied .write 0x2000 = true :=
  ⟨inv_of_check (by decide), by decide, by decide⟩

/-- With input remaining, and at the end of the input. -/
theorem witness_EncFinFullReservesOnlyIfInputRemains :
    (encState 255 .encFinFull 254 255 0 255 1).inv ∧ (encState 254 .encFinFull 254 255 0 255 1).inv ∧
    (encState 254 .encFinFull 254 255 0 255 1).blk.fsm = .encFinFull ∧
    memAdmit (encState 254 .encFinFull 254 255 0 255 1).blk.port.denied .write 0x2000 = true :=
  ⟨inv_of_check (by decide), inv_of_check (by decide), by decide, by decide⟩

/-- Also where the code pointer is the cursor, after a full block at the end of the input. -/
theorem witness_EncFinalWritesTheClosingCode :
    (encState 254 .encFinal 254 255 255 1 1).inv ∧ (encState 254 .encFinal 254 255 255 1 1).blk.fsm = .encFinal ∧
    memAdmit (encState 254 .encFinal 254 255 255 1 1).blk.port.denied .write 0x20FF = true :=
  ⟨inv_of_check (by decide), by decide, by decide⟩

theorem witness_EncDelimAppendsTheDelimiter :
    (encState 0 .encDelim 0 1 0 1 0).inv ∧ (encState 0 .encDelim 0 1 0 1 0).blk.fsm = .encDelim ∧
    memAdmit (encState 0 .encDelim 0 1 0 1 0).blk.port.denied .write 0x2001 = true :=
  ⟨inv_of_check (by decide), by decide, by decide⟩

theorem witness_CompleteReportsTheCursor :
    (decState .complete 6 4 0 true 0).blk.fsm = .complete ∧ (decState .complete 6 4 0 true 0).inv :=
  ⟨by decide, inv_of_check (by decide)⟩

/-- A non-zero code byte with no zero owed, one with a zero owed, and a zero code byte. -/
theorem witness_DecCodeReadsACodeByte :
    (decState .decCode 0 0 0 false 0).inv ∧ (decState .decCode 3 2 0 true 0).inv ∧ (decState .decCode 5 4 0 true 0).inv ∧
    (decState .decCode 5 4 0 true 0).blk.fsm = .decCode ∧ frame.readByte 0x1005 = 0 ∧ frame.readByte 0x1003 = 2 ∧
    memAdmit (decState .decCode 5 4 0 true 0).blk.port.denied .read 0x1005 = true :=
  ⟨inv_of_check (by decide), inv_of_check (by decide), inv_of_check (by decide), by decide, by decide,
    by decide, by decide⟩

theorem witness_DecZeroWritesTheImpliedZero :
    (decState .decZero 4 2 1 true 0).inv ∧ (decState .decZero 4 2 1 true 0).blk.fsm = .decZero ∧
    memAdmit (decState .decZero 4 2 1 true 0).blk.port.denied .write 0x2002 = true :=
  ⟨inv_of_check (by decide), by decide, by decide⟩

theorem witness_DecReadTakesTheNextLiteral :
    (decState .decRead 1 0 2 true 0).inv ∧ (decState .decRead 1 0 2 true 0).blk.fsm = .decRead ∧
    memAdmit (decState .decRead 1 0 2 true 0).blk.port.denied .read 0x1001 = true :=
  ⟨inv_of_check (by decide), by decide, by decide⟩

theorem witness_DecWriteCopiesTheLiteral :
    (decState .decWrite 2 0 2 true 0x11).inv ∧ (decState .decWrite 2 0 2 true 0x11).blk.fsm = .decWrite ∧
    memAdmit (decState .decWrite 2 0 2 true 0x11).blk.port.denied .write 0x2000 = true :=
  ⟨inv_of_check (by decide), by decide, by decide⟩

/-- Idle, and busy with a request that is not admitted. -/
theorem witness_DisabledEngineChangesNothing :
    State.reset.inv ∧ State.reset.blk.enabled = false ∧ (denyAll (encState 4 .encRead 0 1 0 1 0) .read).inv ∧
    (denyAll (encState 4 .encRead 0 1 0 1 0) .read).blk.enabled = false ∧
    (denyAll (encState 4 .encRead 0 1 0 1 0) .read).blk.busy = true :=
  ⟨inv_of_check (by decide), by decide, inv_of_check (by decide), by decide, by decide⟩

theorem witness_EngineStepNeverStops : (encState 254 .encFinal 254 255 255 1 1).inv := inv_of_check (by decide)

/-- A step that reads, and one that does not. -/
theorem witness_EngineReadsEachSourceByteInOrder :
    (encState 4 .encRead 3 4 3 1 0).inv ∧ (∃ t, engineStep (encState 4 .encRead 3 4 3 1 0) = .next t) ∧
    (encState 4 .encRead 3 4 3 1 0).blk.request = some (.read, 0x1003) ∧
    (encState 4 .encLit 1 1 0 1 0x11).inv ∧ (∃ t, engineStep (encState 4 .encLit 1 1 0 1 0x11) = .next t) ∧
    (encState 4 .encLit 1 1 0 1 0x11).blk.request = some (.write, 0x2001) :=
  ⟨inv_of_check (by decide), next_of_seen (by decide), by decide, inv_of_check (by decide),
    next_of_seen (by decide), by decide⟩

theorem witness_EngineWritesOnlyItsDestination :
    (decState .decWrite 2 0 2 true 0x11).inv ∧ (∃ t, engineStep (decState .decWrite 2 0 2 true 0x11) = .next t) ∧
    (decState .decWrite 2 0 2 true 0x11).blk.busy = true :=
  ⟨inv_of_check (by decide), next_of_seen (by decide), by decide⟩

theorem witness_IdleEngineTakesNoStep : State.reset.blk.fsm = .idle := by decide

/-- The instance in focus during an operation, and another one. -/
theorem witness_ResetEventClearsRegistersAndKeepsMemoryAndFaults :
    let s := { withPeer (encState 4 .encRead 3 4 3 1 0) with sched := [.reset 0] }
    let r := { withPeer (encState 4 .encRead 3 4 3 1 0) with sched := [.reset 1] }
    s.sched = [.reset 0] ∧ (s.blk :: s.peers)[0]? = some (encState 4 .encRead 3 4 3 1 0).blk ∧
    r.sched = [.reset 1] ∧ (r.blk :: r.peers)[1]? = some (Block.reset { base := 0x50000000, denied := [] }) := by decide

/-- From a busy Engine, a Host command write, and a store into memory. -/
theorem witness_StepKeepsTheInvariant :
    (encState 4 .encLit 1 1 0 1 0x11).inv ∧ (∃ t, step (encState 4 .encLit 1 1 0 1 0x11) = .next t) ∧
    ((idleState 0x1000 4 0x2000 payload).withFetchWord 32 1).inv ∧
    (∃ t, step ((idleState 0x1000 4 0x2000 payload).withFetchWord 32 1) = .next t) ∧
    (withAction State.reset (.mem (.wr 0x1000 [1, 0]))).inv ∧
    (∃ t, step (withAction State.reset (.mem (.wr 0x1000 [1, 0]))) = .next t) :=
  ⟨inv_of_check (by decide), next_of_seen (by decide), inv_of_check (by decide), next_of_seen (by decide),
    inv_of_check (by decide), next_of_seen (by decide)⟩

theorem witness_RecordedModelFaultsAreNeverCleared :
    let s := { State.reset with faults := { hostProtocol := true, hostRace := true }, sched := [.reset 0] }
    s.faults.hostProtocol = true ∧ s.faults.hostRace = true ∧ ∃ t, step s = .next t :=
  ⟨rfl, rfl, next_of_seen (by decide)⟩

theorem witness_StepKeepsTheOpenParameters : ∃ t, step (encState 4 .encLit 1 1 0 1 0x11) = .next t :=
  next_of_seen (by decide)

/-- A busy peer's Engine turn and its reset, and a turn of an instance that is not there. -/
theorem witness_InstancesKeepTheirOwnRegisters :
    let p := (encState 4 .encRead 0 1 0 1 0).blk
    let s := { State.reset with mem := payload, peers := [p], sched := [.engine 1] }
    let r := { State.reset with mem := payload, peers := [p], sched := [.reset 1] }
    let a := { State.reset with sched := [.engine 1] }
    s.sched = [.engine 1] ∧ s.peers[0]? = some p ∧ (∃ t, step s = .next t) ∧ r.sched = [.reset 1] ∧
    r.peers[0]? = some p ∧ (∃ t, step r = .next t) ∧ a.sched = [.engine 1] ∧ a.peers[0]? = none :=
  ⟨rfl, rfl, next_of_seen (by decide), rfl, rfl, next_of_seen (by decide), rfl, rfl⟩

/-- A listed turn; an enabled Engine in focus; one behind an idle peer; none enabled. -/
theorem witness_EnabledEngineMovesWhenNoTurnIsListed :
    let e := encState 4 .encRead 0 1 0 1 0
    let p := { withPeer State.reset with peers := [State.reset.blk, e.blk] }
    { e with sched := [.engine 0] }.sched = [.engine 0] ∧ e.sched = [] ∧ e.blk.enabled = true ∧
    p.sched = [] ∧ p.blk.enabled = false ∧ p.peers[1]? = some e.blk ∧ State.reset.blk.enabled = false ∧
    (∀ b ∈ (withPeer State.reset).blk :: (withPeer State.reset).peers, b.enabled = false) := by decide

theorem witness_BusyEngineBecomesIdleWithinTheStepBound :
    (encState 4 .encRead 0 1 0 1 0).inv ∧ (encState 4 .encRead 0 1 0 1 0).sched = [] ∧
    (encState 4 .encRead 0 1 0 1 0).peers = [] ∧ (encState 4 .encRead 0 1 0 1 0).blk.busy = true ∧
    ∀ kind a, memAdmit (encState 4 .encRead 0 1 0 1 0).blk.port.denied kind a = true :=
  ⟨inv_of_check (by decide), rfl, rfl, by decide, fun _ _ => rfl⟩

theorem witness_FinishedRunStaysAsItIs : State.reset.over ∧ State.reset.sched = [] := by decide

theorem witness_PollRepeatsWhileBusy :
    (withAction (encState 4 .encRead 0 1 0 1 0) (.poll 0)).hostQueue = [.poll 0] ∧
    (withAction (encState 4 .encRead 0 1 0 1 0) (.poll 0)).blk.fsm ≠ .idle ∧
    (withAction State.reset (.poll 0)).sched = [.host] ∧ (withAction State.reset (.poll 0)).blk.fsm = .idle := by decide

/-- A store and a load that end at the last byte of memory. -/
theorem witness_HostMemoryAccessesActOnTheirBytes :
    State.reset.mem.wf = true ∧ (withAction State.reset (.mem (.wr 0xFFFFFFFE [1, 2]))).sched = [.host] ∧
    State.reset.platform.sharedMap = false ∧
    (withAction State.reset (.mem (.wr 0xFFFFFFFE [1, 2]))).hostQueue = [.mem (.wr 0xFFFFFFFE [1, 2])] ∧
    0xFFFFFFFE + [1, 2].length ≤ 2 ^ 32 ∧ memAdmitAll State.reset.platform.hostDenied .write 0xFFFFFFFE 2 = true ∧
    (withAction State.reset (.mem (.rd 0xFFFFFFFE 2))).hostQueue = [.mem (.rd 0xFFFFFFFE 2)] ∧
    memAdmitAll State.reset.platform.hostDenied .read 0xFFFFFFFE 2 = true ∧
    State.reset.windowOf (0x40000020, 0x40000020 + 2) = none := by decide

/-- The last byte of the destination region of 7 bytes, and a store to the source. -/
theorem witness_HostTouchingBusyBuffersRecordsHostRace :
    let s := withAction (encState 4 .encRead 0 1 0 1 0) (.mem (.rd 0x2006 1))
    let w := withAction (encState 4 .encRead 0 1 0 1 0) (.mem (.wr 0x0FFF [1, 2]))
    s.inv ∧ s.blk.busy = true ∧ s.blk.duties = [{ cmd := .encode, s := 0x1000, l := 4, d := 0x2000 }] ∧
    s.sched = [.host] ∧ s.platform.sharedMap = false ∧ s.hostQueue = [.mem (.rd 0x2006 1)] ∧
    seen (step s) State.hostQueue = some [] ∧ 0x2006 < s.blk.D.toNat + capOf .encode s.blk.L.toNat ∧
    w.inv ∧ w.hostQueue = [.mem (.wr 0x0FFF [1, 2])] ∧ seen (step w) State.hostQueue = some [] ∧
    (Bus.wr 0x0FFF [1, 2]).isWrite = true ∧ w.blk.S.toNat ≤ 0x1000 :=
  ⟨inv_of_check (by decide), by decide, by decide, by decide, by decide, by decide, by decide, by decide,
    inv_of_check (by decide), by decide, by decide, by decide, by decide⟩

/-- A duty still open after the reset that ended its operation; one of another instance; the last byte of each region. -/
theorem witness_HostTouchingBusyBuffersRecordsHostRace_open :
    let u := { cmd := .encode, s := 0x1000, l := 4, d := 0x2000 : Duty }
    let e := { State.reset.blk with duties := [u] }
    let s := withAction { State.reset with blk := e } (.mem (.rd 0x2006 1))
    let w := withAction { State.reset with peers := [e] } (.mem (.wr 0x1003 [1]))
    e ∈ s.blk :: s.peers ∧ u ∈ e.duties ∧ s.blk.fsm = .idle ∧ s.sched = [.host] ∧ s.platform.sharedMap = false ∧
    s.hostQueue = [.mem (.rd 0x2006 1)] ∧ seen (step s) State.hostQueue = some [] ∧
    0x2006 < u.d.toNat + capOf u.cmd u.l.toNat ∧
    e ∈ w.blk :: w.peers ∧ w.sched = [.host] ∧ w.hostQueue = [.mem (.wr 0x1003 [1])] ∧
    seen (step w) State.hostQueue = some [] ∧ (Bus.wr 0x1003 [1]).isWrite = true ∧ 0x1003 < u.s.toNat + u.l.toNat := by
  decide

/-- In a shared map: the byte beside the window that the access touches as well, by a store and by a register access. -/
theorem witness_HostTouchingBusyBuffersRecordsHostRace_shared :
    let e := { (encState 4 .encRead 0 1 0 1 0) with platform := { sharedMap := true, hostDenied := [] } }
    let s := { e with blk := { e.blk with
      D := 0x40000020, dstAddr := 0x40000020, duties := [{ cmd := .encode, s := 0x1000, l := 4, d := 0x40000020 }] } }
    let m := withAction s (.mem (.wr 0x4000001F [7, 7]))
    let r := withAction s (.reg (.rd 0x4000001F 2))
    m.inv ∧ m.blk.busy = true ∧ m.platform.sharedMap = true ∧ m.windowOf (0x40000020, 0x40000020 + 1) = none ∧
    seen (step m) State.hostQueue = some [] ∧ m.blk.D.toNat ≤ 0x40000020 ∧ r.inv ∧
    r.hostQueue = [.reg (.rd 0x4000001F 2)] ∧ seen (step r) State.hostQueue = some [] :=
  ⟨inv_of_check (by decide), by decide, by decide, by decide, by decide, by decide, inv_of_check (by decide), by decide,
    by decide⟩

/-- Destinations that share the byte 0x2000; and a source that meets the other's destination. -/
theorem witness_AcceptClashingWithBusyPeerRecordsHostRace :
    let p := (encState 4 .encRead 0 1 0 1 0).blk
    let s := { idleState 0x3000 1 0x1FFD [] with peers := [p] }
    let r := { idleState 0x2000 1 0x3000 [] with peers := [p] }
    s.blk.fsm = .idle ∧ check .encode s.blk.srcAddr s.blk.srcLen s.blk.dstAddr = .none ∧ p ∈ s.peers ∧ p.busy = true ∧
    p.duties = [{ cmd := .encode, s := 0x1000, l := 4, d := 0x2000 }] ∧
    s.blk.dstAddr.toNat ≤ 0x2000 ∧ 0x2000 < s.blk.dstAddr.toNat + capOf .encode s.blk.srcLen.toNat ∧
    check .decode r.blk.srcAddr r.blk.srcLen r.blk.dstAddr = .none ∧ r.blk.srcAddr.toNat ≤ 0x2000 ∧
    0x2000 < r.blk.srcAddr.toNat + r.blk.srcLen.toNat := by decide

theorem witness_SharedMapStoreIsTheLittleEndianRegisterWrite :
    let s := { withAction State.reset (.mem (.wr 0x4000000C [4, 3, 2, 1])) with
      platform := { sharedMap := true, hostDenied := [] } }
    s.platform.sharedMap = true ∧ s.sched = [.host] ∧ s.hostQueue = [.mem (.wr (s.blk.port.base + 0x0C)
      [(0x01020304#32).extractLsb' 0 8, (0x01020304#32).extractLsb' 8 8, (0x01020304#32).extractLsb' 16 8,
        (0x01020304#32).extractLsb' 24 8])] := by decide

theorem witness_EncodeWritesEncodeFnOfTheSource :
    let s := idleState 0x1000 4 0x2000 payload
    s.inv ∧ s.blk.fsm = .idle ∧ check .encode s.blk.srcAddr s.blk.srcLen s.blk.dstAddr = .none ∧
    s.blk.admits .read (srcRegion s.blk.srcAddr s.blk.srcLen) ∧
    s.blk.admits .write (dstRegion .encode s.blk.srcLen s.blk.dstAddr) ∧
    [0x11#8, 0x22#8, 0x00#8, 0x33#8] = s.mem.readBytes s.blk.srcAddr.toNat s.blk.srcLen.toNat :=
  ⟨inv_of_check (by decide), rfl, by decide, fun _ _ _ => rfl, fun _ _ _ => rfl, by decide⟩

theorem witness_DecodeWritesDecodeFnOfTheSource :
    let s := idleState 0x1000 6 0x2000 frame
    s.inv ∧ s.blk.fsm = .idle ∧ check .decode s.blk.srcAddr s.blk.srcLen s.blk.dstAddr = .none ∧
    s.blk.admits .read (srcRegion s.blk.srcAddr s.blk.srcLen) ∧
    s.blk.admits .write (dstRegion .decode s.blk.srcLen s.blk.dstAddr) ∧
    [0x03#8, 0x11#8, 0x22#8, 0x02#8, 0x33#8, 0x00#8] = s.mem.readBytes s.blk.srcAddr.toNat s.blk.srcLen.toNat :=
  ⟨inv_of_check (by decide), rfl, by decide, fun _ _ _ => rfl, fun _ _ _ => rfl, by decide⟩

/-- 254 non-zero bytes: for the round trip, the edge cases and the length bound. -/
theorem witness_DecodingAnEncodingGivesTheBufferBack :
    (List.replicate 254 (1 : Byte)).length = 254 ∧ ∀ x ∈ List.replicate 254 (1 : Byte), x ≠ 0 := by
  refine ⟨List.length_replicate, fun x hx => ?_⟩
  rw [(List.mem_replicate.mp hx).2]
  decide

theorem witness_EncodingEdgeCases :
    (List.replicate 254 (1 : Byte)).length = 254 ∧ ∀ x ∈ List.replicate 254 (1 : Byte), x ≠ 0 :=
  witness_DecodingAnEncodingGivesTheBufferBack

theorem witness_EncodingLengthMeetsItsBounds : ∀ x ∈ [0x11#8, 0x22#8], x ≠ 0 := by decide

/-- A block cut short, and a block followed by a zero code byte. -/
theorem witness_DecodingStopsAndBounds :
    [0x11#8, 0x22#8].length < (0x05#8).toNat ∧ [0x11#8, 0x22#8].length + 1 = (0x03#8).toNat := by decide

theorem witness_OperationIgnoresOldEngineRegisters :
    let s := idleState 0x1000 4 0x2000 payload
    let b := { s.blk with i := 7, cur := 9, codep := 5, code := 77, zpend := true }
    s.inv ∧ b.inv ∧ s.blk.fsm = .idle ∧ (∃ t, exec .encode s = .next t ∧ ∃ u, engineRun 3 t = .next u) ∧
    ∃ t, exec .encode { s with blk := b } = .next t ∧ ∃ u, engineRun 3 t = .next u :=
  let b := { (idleState 0x1000 4 0x2000 payload).blk with i := 7, cur := 9, codep := 5, code := 77, zpend := true }
  ⟨inv_of_check (by decide), (inv_of_check (s := { idleState 0x1000 4 0x2000 payload with blk := b }) (by decide)).1, rfl,
    ⟨_, rfl, next_of_seen (by decide)⟩, ⟨_, rfl, next_of_seen (by decide)⟩⟩

end Sys2Proof.Tests
end

/-! PROOFS of 00_scope.md. Postconditions of a step, and the open parameters that no step changes (R6). -/

namespace Sys2Proof.Machine

/-! A postcondition of a result, with one rule per shared operation. The proofs about the steps below go through these
rules. -/

/-- `P` holds of the next state, if the result is one. -/
def Ensures (P : State → Prop) (r : Result) : Prop := ∀ t, r = .next t → P t

section Rules
variable {P Q : State → Prop}

@[simp] theorem ensures_next {t : State} : Ensures P (.next t) ↔ P t := by simp [Ensures]

@[simp] theorem ensures_fault (e : Fault) : Ensures P (.fault e) := nofun

theorem Ensures.imp {r : Result} (h : Ensures P r) (hPQ : ∀ t, P t → Q t) : Ensures Q r := fun t ht => hPQ t (h t ht)

theorem ensures_ite {c : Prop} [Decidable c] {r r' : Result} (h : Ensures P r) (h' : Ensures P r') :
    Ensures P (if c then r else r') := by
  split
  · exact h
  · exact h'

theorem ensures_andThen {r : Result} {f : State → Result} (hr : Ensures Q r) (hf : ∀ s, Q s → Ensures P (f s)) :
    Ensures P (andThen r f) := by
  intro t ht
  obtain ⟨s, hs, hft⟩ := andThen_next ht
  exact hf s (hr s hs) t hft

/-- A MemRead leaves the state as it is or goes on with some byte (20_memory.md R52). -/
theorem ensures_memRead {a : Nat} {s : State} {k : Byte → State → Result} (hs : P s)
    (hk : ∀ x, Ensures P (k x (s.noteEngine .read a))) : Ensures P (memRead a s k) := by
  intro t ht
  obtain ⟨-, ⟨-, hgo⟩ | ⟨-, rfl⟩⟩ := memRead_next ht
  · exact hk _ t hgo
  · exact hs

/-- A MemWrite leaves the state as it is or goes on from the written memory (20_memory.md R52). -/
theorem ensures_memWrite {a : Nat} {x : Byte} {s : State} {k : State → Result} (hs : P s)
    (hk : Ensures P (k ((s.withMem (s.mem.writeByte a x)).noteEngine .write a))) : Ensures P (memWrite a x s k) := by
  intro t ht
  obtain ⟨-, ⟨-, hgo⟩ | ⟨-, rfl⟩⟩ := memWrite_next ht
  · exact hk t hgo
  · exact hs

theorem ensures_fitWord {n : Nat} {k : Word → Result} (hk : ∀ x, Ensures P (k x)) : Ensures P (fitWord n k) :=
  fun t ht => hk _ t (fitWord_next ht).2

theorem ensures_fitByte {n : Nat} {k : Byte → Result} (hk : ∀ x, Ensures P (k x)) : Ensures P (fitByte n k) :=
  fun t ht => hk _ t (fitByte_next ht).2

end Rules

/-! What an action of the block in focus leaves alone: an Engine step, a register access, a reset event. -/

/-- `t` comes from `s` by an action of the block in focus: the other blocks (60_exceptions.md R151) and the open
parameters of the platform and of the block (00_scope.md R6) are as before. -/
structure State.ActsInFocus (s t : State) : Prop where
  peers : t.peers = s.peers
  platform : t.platform = s.platform
  port : t.blk.port = s.blk.port

theorem State.ActsInFocus.refl (s : State) : s.ActsInFocus s := ⟨rfl, rfl, rfl⟩

theorem State.ActsInFocus.withBlk {s t : State} {b : Block} (h : s.ActsInFocus t) (hb : b.port = s.blk.port) :
    s.ActsInFocus (t.withBlk b) := ⟨h.peers, h.platform, hb⟩

theorem State.ActsInFocus.pushRead {s t : State} (h : s.ActsInFocus t) (r : HostRead) : s.ActsInFocus (t.pushRead r) :=
  ⟨h.peers, h.platform, h.port⟩

@[simp] theorem Block.takeCode_port (c : Byte) (b : Block) : (b.takeCode c).port = b.port := by
  by_cases hc : c = 0
  · rw [hc, Block.takeCode_zero]
  · cases hz : b.zpend with
    | true => rw [Block.takeCode_pending hc hz]
    | false => rw [Block.takeCode_none_pending hc hz, Block.toDecNext_port]

@[simp] theorem Block.init_port (cmd : Command) (b : Block) : (b.init cmd).port = b.port := by cases cmd <;> rfl

theorem memRead_actsInFocus {a : Nat} {s : State} {k : Byte → State → Result}
    (hk : ∀ x s', s.ActsInFocus s' → Ensures s.ActsInFocus (k x s')) : Ensures s.ActsInFocus (memRead a s k) :=
  ensures_memRead (.refl s) fun x => hk x _ ⟨rfl, rfl, rfl⟩

theorem memWrite_actsInFocus {a : Nat} {x : Byte} {s : State} {k : State → Result}
    (hk : ∀ s', s.ActsInFocus s' → Ensures s.ActsInFocus (k s')) : Ensures s.ActsInFocus (memWrite a x s k) :=
  ensures_memWrite (.refl s) (hk _ ⟨rfl, rfl, rfl⟩)

/-! The Engine's steps: a memory access, then a new block in focus with the port of the old one. -/

section EngineSteps
variable (s : State)

theorem encReadStep_actsInFocus : Ensures s.ActsInFocus (encReadStep s) :=
  memRead_actsInFocus fun _ _ h => ensures_fitWord fun _ => ensures_next.mpr (h.withBlk h.port)

theorem encLitStep_actsInFocus : Ensures s.ActsInFocus (encLitStep s) :=
  memWrite_actsInFocus fun _ h => ensures_fitWord fun _ => ensures_fitByte fun _ => ensures_next.mpr <| h.withBlk <| by
    split <;> exact h.port

theorem encFinZeroStep_actsInFocus : Ensures s.ActsInFocus (encFinZeroStep s) :=
  memWrite_actsInFocus fun _ h => ensures_fitWord fun _ => ensures_next.mpr (h.withBlk h.port)

theorem encFinFullStep_actsInFocus : Ensures s.ActsInFocus (encFinFullStep s) :=
  memWrite_actsInFocus fun _ h =>
    ensures_ite (ensures_fitWord fun _ => ensures_next.mpr (h.withBlk h.port)) (ensures_next.mpr (h.withBlk h.port))

theorem encFinalStep_actsInFocus : Ensures s.ActsInFocus (encFinalStep s) :=
  memWrite_actsInFocus fun _ h => ensures_next.mpr (h.withBlk h.port)

theorem encDelimStep_actsInFocus : Ensures s.ActsInFocus (encDelimStep s) :=
  memWrite_actsInFocus fun _ h => ensures_fitWord fun _ => ensures_next.mpr (h.withBlk h.port)

theorem decCodeStep_actsInFocus : Ensures s.ActsInFocus (decCodeStep s) :=
  memRead_actsInFocus fun c _ h => ensures_fitWord fun _ =>
    ensures_next.mpr (h.withBlk ((Block.takeCode_port c _).trans h.port))

theorem decZeroStep_actsInFocus : Ensures s.ActsInFocus (decZeroStep s) :=
  memWrite_actsInFocus fun _ h => ensures_fitWord fun _ => ensures_next.mpr (h.withBlk h.port)

theorem decReadStep_actsInFocus : Ensures s.ActsInFocus (decReadStep s) :=
  memRead_actsInFocus fun _ _ h => ensures_fitWord fun _ => ensures_next.mpr (h.withBlk h.port)

theorem decWriteStep_actsInFocus : Ensures s.ActsInFocus (decWriteStep s) :=
  memWrite_actsInFocus fun _ h => ensures_fitWord fun _ =>
    ensures_ite (ensures_fault _) (ensures_next.mpr (h.withBlk h.port))

theorem completeOp_actsInFocus : Ensures s.ActsInFocus (completeOp s) :=
  ensures_next.mpr ((State.ActsInFocus.refl s).withBlk rfl)

theorem engineStep_actsInFocus : Ensures s.ActsInFocus (engineStep s) := by
  cases h : s.blk.fsm with
  | idle => rw [engineStep_idle h]; exact ensures_next.mpr (.refl s)
  | encRead => rw [engineStep_encRead h]; exact encReadStep_actsInFocus s
  | encLit => rw [engineStep_encLit h]; exact encLitStep_actsInFocus s
  | encFinZero => rw [engineStep_encFinZero h]; exact encFinZeroStep_actsInFocus s
  | encFinFull => rw [engineStep_encFinFull h]; exact encFinFullStep_actsInFocus s
  | encFinal => rw [engineStep_encFinal h]; exact encFinalStep_actsInFocus s
  | encDelim => rw [engineStep_encDelim h]; exact encDelimStep_actsInFocus s
  | decCode => rw [engineStep_decCode h]; exact decCodeStep_actsInFocus s
  | decZero => rw [engineStep_decZero h]; exact decZeroStep_actsInFocus s
  | decRead => rw [engineStep_decRead h]; exact decReadStep_actsInFocus s
  | decWrite => rw [engineStep_decWrite h]; exact decWriteStep_actsInFocus s
  | complete => rw [engineStep_complete h]; exact completeOp_actsInFocus s

end EngineSteps

/-! The instructions, the register port of the block in focus, and its reset event. -/

theorem writeCommand_actsInFocus (w : Word) (s : State) : Ensures s.ActsInFocus (writeCommand w s) := by
  obtain ⟨-, h⟩ | ⟨-, -, h⟩ | ⟨-, -, h⟩ := writeCommand_cases w s
  · rw [h]; exact ensures_next.mpr ⟨rfl, rfl, rfl⟩
  · rw [h]; exact ensures_next.mpr ⟨rfl, rfl, Block.init_port _ s.blk.latch.acceptFlags⟩
  · rw [h]; exact ensures_next.mpr ⟨rfl, rfl, rfl⟩

theorem execRdStatus_actsInFocus (s : State) : Ensures s.ActsInFocus (execRdStatus s) := by
  refine ensures_next.mpr (State.ActsInFocus.pushRead ?_ _)
  split
  · exact .refl s
  · exact (State.ActsInFocus.refl s).withBlk rfl

theorem execRdResultLen_actsInFocus (s : State) : Ensures s.ActsInFocus (execRdResultLen s) :=
  ensures_ite (ensures_next.mpr ⟨rfl, rfl, rfl⟩) (ensures_next.mpr ⟨rfl, rfl, rfl⟩)

theorem exec_actsInFocus (i : Instr) (s : State) : Ensures s.ActsInFocus (exec i s) := by
  cases i with
  | encode => exact writeCommand_actsInFocus _ s
  | decode => exact writeCommand_actsInFocus _ s
  | wrCmd w => exact writeCommand_actsInFocus w s
  | rdStatus => exact execRdStatus_actsInFocus s
  | rdResultLen => exact execRdResultLen_actsInFocus s
  | wrSrcAddr x | wrSrcLen x | wrDstAddr x => exact ensures_next.mpr ((State.ActsInFocus.refl s).withBlk rfl)
  | rdSrcAddr | rdSrcLen | rdDstAddr => exact ensures_next.mpr ((State.ActsInFocus.refl s).pushRead _)

theorem windowStep_actsInFocus (x : Bus) (s : State) : Ensures s.ActsInFocus (windowStep x s) := by
  cases h : decode s.blk.port.base x with
  | ok i => rw [windowStep_of_ok h]; exact exec_actsInFocus i s
  | error e => rw [windowStep_of_error h]; exact ensures_next.mpr ⟨rfl, rfl, rfl⟩

theorem resetStep_actsInFocus (s : State) : Ensures s.ActsInFocus (resetStep s) :=
  ensures_next.mpr ⟨rfl, rfl, Block.resetEvent_port _ _⟩

/-! The open parameters along a turn (00_scope.md R6). -/

/-- The open parameters of `t` are those of `s`: the platform's, each block's, and how many blocks there are. -/
structure State.SameParameters (s t : State) : Prop where
  platform : t.platform = s.platform
  port : t.blk.port = s.blk.port
  peers : t.peers.map Block.port = s.peers.map Block.port

theorem State.SameParameters.refl (s : State) : s.SameParameters s := ⟨rfl, rfl, rfl⟩

theorem State.sameParameters_withQueue (s : State) (q : List HostAction) : s.SameParameters (s.withQueue q) :=
  ⟨rfl, rfl, rfl⟩

theorem State.sameParameters_withSched (s : State) (ts : List Turn) : s.SameParameters (s.withSched ts) :=
  ⟨rfl, rfl, rfl⟩

theorem State.sameParameters_noteBeside (s : State) (x : Bus) : s.SameParameters (s.noteBeside x) := ⟨rfl, rfl, rfl⟩

theorem State.SameParameters.trans {s t u : State} (h : s.SameParameters t) (h' : t.SameParameters u) :
    s.SameParameters u :=
  ⟨h'.platform.trans h.platform, h'.port.trans h.port, h'.peers.trans h.peers⟩

theorem State.SameParameters.ensures {s t : State} {r : Result} (h : s.SameParameters t)
    (hr : Ensures t.SameParameters r) : Ensures s.SameParameters r := hr.imp fun _ => h.trans

theorem State.ActsInFocus.sameParameters {s t : State} (h : s.ActsInFocus t) : s.SameParameters t :=
  ⟨h.platform, h.port, congrArg _ h.peers⟩

/-- An action of a peer brought into focus, once the peer is put back. -/
theorem State.ActsInFocus.sameParameters_unswap {s t : State} {j : Nat} {b : Block} (hb : s.peers[j]? = some b)
    (h : (s.swap j b).ActsInFocus t) : s.SameParameters (t.unswap j) := by
  rw [State.unswap_of_peers hb h.peers]
  refine ⟨h.platform, rfl, ?_⟩
  have hj : (s.peers.map Block.port)[j]? = some t.blk.port := by simp [hb, h.port]
  rw [List.map_set, set_of_getElem? hj]

theorem atBlock_sameParameters {f : State → Result} {absent : Result} {s : State} (k : Nat)
    (hf : ∀ s, Ensures s.ActsInFocus (f s)) (ha : Ensures s.SameParameters absent) :
    Ensures s.SameParameters (atBlock k f absent s) := by
  cases k with
  | zero => exact (hf s).imp fun _ => State.ActsInFocus.sameParameters
  | succ j =>
    cases hb : s.peers[j]? with
    | none => rw [atBlock_of_absent f absent hb]; exact ha
    | some b =>
      rw [atBlock_of_present f absent hb]
      exact ensures_andThen (hf _) fun _ ht => ensures_next.mpr (ht.sameParameters_unswap hb)

theorem regAccess_sameParameters (x : Bus) (s : State) : Ensures s.SameParameters (regAccess x s) := by
  cases h : s.windowOf (busRegion x) with
  | none => simp [regAccess, h]
  | some k =>
    rw [regAccess_of_window h]
    exact (s.sameParameters_noteBeside x).ensures <|
      atBlock_sameParameters k (windowStep_actsInFocus x) (ensures_fault _)

theorem memAccess_sameParameters (x : Bus) (q : List HostAction) (s : State) :
    Ensures s.SameParameters (memAccess x q s) := by
  refine ensures_ite (ensures_fault _) ?_
  cases x with
  | rd a n => exact ensures_ite (ensures_next.mpr ⟨rfl, rfl, rfl⟩) (ensures_next.mpr (.refl s))
  | wr a d => exact ensures_ite (ensures_next.mpr ⟨rfl, rfl, rfl⟩) (ensures_next.mpr (.refl s))

/-- A `POLL` reads STATUS and may go back to the head of the Host's program (30_encoding.md R70). -/
theorem pollAgain_sameParameters {s t : State} (h : s.SameParameters t) (k : Nat) (q : List HostAction) :
    s.SameParameters (if t.readBusy then t.withQueue (.poll k :: q) else t) := by
  split
  · exact h.trans (t.sameParameters_withQueue _)
  · exact h

theorem hostTurn_sameParameters (s : State) : Ensures s.SameParameters (hostTurn s) := by
  have hreg (x : Bus) (q : List HostAction) : Ensures s.SameParameters (regAccess x (s.withQueue q)) :=
    (s.sameParameters_withQueue q).ensures (regAccess_sameParameters x _)
  unfold hostTurn
  split
  next => exact ensures_next.mpr (.refl s)
  next x q _ => exact hreg x q
  next x q _ => exact ensures_ite (hreg x q) (memAccess_sameParameters x q s)
  next k q _ =>
    have hread : Ensures s.SameParameters (atBlock k (exec .rdStatus) (.fault .noWindow) (s.withQueue q)) :=
      (s.sameParameters_withQueue q).ensures <| atBlock_sameParameters k (exec_actsInFocus .rdStatus) (ensures_fault _)
    exact ensures_andThen hread fun t ht => ensures_next.mpr (pollAgain_sameParameters ht k q)

theorem runTurn_sameParameters (t : Turn) (s : State) : Ensures s.SameParameters (runTurn t s) := by
  cases t with
  | host => exact hostTurn_sameParameters s
  | engine k => exact atBlock_sameParameters k engineStep_actsInFocus (ensures_next.mpr (.refl s))
  | reset k => exact atBlock_sameParameters k resetStep_actsInFocus (ensures_next.mpr (.refl s))

theorem step_sameParameters (s : State) : Ensures s.SameParameters (step s) := by
  cases h : s.sched with
  | nil => rw [step_of_none_listed h]; exact runTurn_sameParameters _ s
  | cons t ts => rw [step_of_listed h]; exact (s.sameParameters_withSched ts).ensures (runTurn_sameParameters t _)

/-- Settles O41: a turn is a Host memory access, which touches no block, or an action of one block in focus, which keeps
its own parameters, leaves the other blocks alone, and is put back where it was. -/
theorem stepKeepsTheOpenParameters : Obligations.StepKeepsTheOpenParameters := by
  intro s t h
  obtain ⟨hplatform, hport, hpeers⟩ := step_sameParameters s t h
  exact ⟨hplatform, hport, hpeers⟩

end Sys2Proof.Machine

/-! PROOFS of 10_state.md. The STATUS word (R23), the invariant of a block (R29) and of the machine along a step, the
reset state (R34), and what the course of an operation depends on (R33). -/

namespace Sys2Proof.Machine

/-! The STATUS word (10_state.md R23). -/

theorem Block.busy_iff {b : Block} : b.busy = true ↔ b.fsm ≠ .idle := by simp [Block.busy]

theorem Block.busy_eq_false_iff {b : Block} : b.busy = false ↔ b.fsm = .idle := by simp [Block.busy]

/-- The codes a rejection reports (60_exceptions.md R136). -/
theorem errcode_cases {e : BitVec 4} (h1 : 1 ≤ e.toNat) (h4 : e.toNat ≤ 4) : e = 1 ∨ e = 2 ∨ e = 3 ∨ e = 4 := by
  bv_omega

/-- The three forms of STATUS: busy with no other flag, idle without an error, and idle with DONE, ERR and a code. -/
theorem Block.statusInv_cases {b : Block} (h : b.statusInv) :
    (b.busy = true ∧ b.done = false ∧ b.err = false ∧ b.errcode = 0) ∨
    (b.busy = false ∧ b.err = false ∧ b.errcode = 0) ∨
    (b.busy = false ∧ b.done = true ∧ b.err = true ∧ 1 ≤ b.errcode.toNat ∧ b.errcode.toNat ≤ 4) := by
  obtain ⟨hbusy, hnoerr, herr, -⟩ := h
  cases hb : b.busy with
  | true =>
    obtain ⟨hd, he⟩ := hbusy hb
    exact .inl ⟨rfl, hd, he, hnoerr he⟩
  | false =>
    cases he : b.err with
    | false => exact .inr (.inl ⟨rfl, rfl, hnoerr he⟩)
    | true =>
      obtain ⟨hd, h1, h4, -⟩ := herr he
      exact .inr (.inr ⟨rfl, hd, rfl, h1, h4⟩)

/-- Settles O10: the STATUS word is computed in each of the three forms of STATUS. -/
theorem statusWordTakesOnlySevenValues : Obligations.StatusWordTakesOnlySevenValues := by
  intro b h
  rw [← Block.busy_iff]
  obtain ⟨hb, hd, he, hc⟩ | ⟨hb, he, hc⟩ | ⟨hb, hd, he, h1, h4⟩ := Block.statusInv_cases h
  · simp [Block.statusWord, hb, hd, he, hc]
  · cases hd : b.done <;> simp [Block.statusWord, hb, hd, he, hc]
  · obtain hc | hc | hc | hc := errcode_cases h1 h4 <;> simp [Block.statusWord, hb, hd, he, hc]

/-! The shapes of the invariant of one block: idle, running an ENCODE, running a DECODE, about to complete. -/

/-- An operation of `cmd` is running: of STATUS only BUSY is set, the newest duty is that command's with the latched
operands, and these have passed the acceptance check (40_command.md R82, R83). -/
def Block.Serves (b : Block) (cmd : Command) : Prop :=
  b.done = false ∧ b.err = false ∧ b.errcode = 0 ∧
    b.duties.head? = some { cmd := cmd, s := b.S, l := b.L, d := b.D } ∧ check cmd b.S b.L b.D = .none

section Shapes
variable {b : Block} {cmd : Command}

/-- No range of the encoder is asked of an Engine state that is not the encoder's. -/
theorem Block.encInv_of_cmd_ne (h : b.fsm.cmd ≠ some .encode) : b.encInv := by
  have hne {f : Fsm} (hf : f.cmd = some .encode) : b.fsm ≠ f := fun e => h (e ▸ hf)
  exact ⟨(absurd · (hne rfl)), fun e => e.elim (absurd · (hne rfl)) (absurd · (hne rfl)), (absurd · (hne rfl)),
    fun e => e.elim (absurd · (hne rfl)) (absurd · (hne rfl))⟩

/-- No range of the decoder is asked of an Engine state that is not the decoder's. -/
theorem Block.decInv_of_cmd_ne (h : b.fsm.cmd ≠ some .decode) : b.decInv := by
  have hne {f : Fsm} (hf : f.cmd = some .decode) : b.fsm ≠ f := fun e => h (e ▸ hf)
  exact ⟨(absurd · (hne rfl)), (absurd · (hne rfl)), (absurd · (hne rfl)), (absurd · (hne rfl))⟩

theorem Block.busy_of_cmd (h : b.fsm.cmd = some cmd) : b.busy = true :=
  Block.busy_iff.mpr fun e => nomatch (e ▸ h : Fsm.idle.cmd = some cmd)

theorem Block.ne_complete_of_cmd (h : b.fsm.cmd = some cmd) : b.fsm ≠ .complete :=
  fun e => nomatch (e ▸ h : Fsm.complete.cmd = some cmd)

theorem Block.Serves.statusInv (h : b.Serves cmd) (hb : b.busy = true) : b.statusInv := by
  obtain ⟨hdone, herr, hcode, -, -⟩ := h
  exact ⟨fun _ => ⟨hdone, herr⟩, fun _ => hcode, fun e => by simp [herr] at e, fun e => by simp [hb] at e⟩

theorem Block.Serves.latchInv (h : b.Serves cmd) (hcmd : b.fsm.cmd = none ∨ b.fsm.cmd = some cmd)
    (hcur : b.fsm = .complete → b.cur.toNat ≤ resultBound cmd b.L.toNat) : b.latchInv := by
  obtain ⟨-, -, -, hduty, hpassed⟩ := h
  refine ⟨fun hnil => by simp [hnil] at hduty, fun u hu _ => ?_⟩
  obtain rfl : u = _ := Option.some.inj ((Option.mem_def.mp hu).symm.trans hduty)
  exact ⟨rfl, hpassed, hcmd, hcur⟩

theorem Block.inv_of_idle (hf : b.fsm = .idle) (hs : b.statusInv) : b.inv :=
  have hb : b.busy = false := Block.busy_eq_false_iff.mpr hf
  ⟨hs, ⟨fun _ => hb, fun _ _ e => by simp [hb] at e⟩, Block.encInv_of_cmd_ne (by simp [hf, Fsm.cmd]),
    Block.decInv_of_cmd_ne (by simp [hf, Fsm.cmd])⟩

theorem Block.inv_of_encoding (h : b.Serves .encode) (hf : b.fsm.cmd = some .encode) (henc : b.encInv) : b.inv :=
  ⟨h.statusInv (busy_of_cmd hf), h.latchInv (.inr hf) fun e => absurd e (ne_complete_of_cmd hf), henc,
    Block.decInv_of_cmd_ne (by simp [hf])⟩

theorem Block.inv_of_decoding (h : b.Serves .decode) (hf : b.fsm.cmd = some .decode) (hdec : b.decInv) : b.inv :=
  ⟨h.statusInv (busy_of_cmd hf), h.latchInv (.inr hf) fun e => absurd e (ne_complete_of_cmd hf),
    Block.encInv_of_cmd_ne (by simp [hf]), hdec⟩

theorem Block.inv_of_complete (h : b.Serves cmd) (hf : b.fsm = .complete)
    (hcur : b.cur.toNat ≤ resultBound cmd b.L.toNat) : b.inv :=
  ⟨h.statusInv (Block.busy_iff.mpr (by simp [hf])), h.latchInv (.inl (by simp [hf, Fsm.cmd])) fun _ => hcur,
    Block.encInv_of_cmd_ne (by simp [hf, Fsm.cmd]), Block.decInv_of_cmd_ne (by simp [hf, Fsm.cmd])⟩

theorem Block.inv.serves (h : b.inv) (hf : b.fsm.cmd = some cmd) : b.Serves cmd := by
  obtain ⟨⟨hflags, hcode, -, -⟩, ⟨hnil, hduty⟩, -, -⟩ := h
  have hb : b.busy = true := Block.busy_of_cmd hf
  obtain ⟨hdone, herr⟩ := hflags hb
  cases hd : b.duties with
  | nil => simp [hnil hd] at hb
  | cons u us =>
    obtain ⟨hu, hpassed, hcmd, -⟩ := hduty u (by simp [hd]) hb
    obtain rfl : cmd = u.cmd := by simpa [hf] using hcmd
    exact ⟨hdone, herr, hcode herr, by rw [hd, ← hu]; rfl, hpassed⟩

end Shapes

/-! The block after each Engine step of an ENCODE (41_encoder.md R98 to R103). `i`, `cur` and `code` stand for the
counters one higher. -/

section Encoding
variable {b : Block}

theorem Block.toEncNext_of_lt (h : b.i.toNat < b.L.toNat) : b.toEncNext = { b with fsm := .encRead } := by
  rw [Block.toEncNext, Block.encNext, if_pos (BitVec.lt_def.mpr h)]

theorem Block.toEncNext_of_le (h : b.L.toNat ≤ b.i.toNat) : b.toEncNext = { b with fsm := .encFinal } := by
  rw [Block.toEncNext, Block.encNext, if_neg (BitVec.not_lt.mpr h)]

/-- `enc_next` (41_encoder.md R97) enters the ranges of ENC_READ, or of ENC_FINAL at the end of the input. -/
theorem Block.inv_toEncNext (hs : b.Serves .encode) (hi : b.i.toNat ≤ b.L.toNat)
    (hcur : b.encCursor b.i.toNat (b.code.toNat - 1)) (hcodep : b.codep.toNat < b.cur.toNat)
    (hcode : 1 ≤ b.code.toNat ∧ b.code.toNat ≤ 254)
    (hend : b.i = b.L → b.cur.toNat = b.i.toNat + 1 ∨ 254 * (b.cur.toNat - (b.i.toNat + 1)) < b.i.toNat) :
    b.toEncNext.inv := by
  by_cases hlt : b.i.toNat < b.L.toNat
  · rw [Block.toEncNext_of_lt hlt]
    exact Block.inv_of_encoding hs rfl ⟨fun _ => ⟨hlt, hcur, hcodep, hcode⟩, nofun, nofun, nofun⟩
  · have he : b.i = b.L := BitVec.eq_of_toNat_eq (by omega)
    rw [Block.toEncNext_of_le (by omega)]
    have hlast := hend he
    rw [he] at hcur hlast
    exact Block.inv_of_encoding hs rfl ⟨nofun, nofun, nofun, fun _ => ⟨he, hcur.1, hlast, hcodep.le, hcode⟩⟩

/-- A block of the output has just been opened: its code is 1. -/
theorem code_one_range : 1 ≤ (1 : Byte).toNat ∧ (1 : Byte).toNat ≤ 254 := by decide

/-- `enc_init` (41_encoder.md R96) enters the ranges. -/
theorem Block.inv_toEncNext_at_start (hs : b.Serves .encode) (hi : b.i = 0) (hcur : b.cur = 1) (hcodep : b.codep = 0)
    (hcode : b.code = 1) : b.toEncNext.inv := by
  refine Block.inv_toEncNext hs ?_ ?_ ?_ (hcode ▸ code_one_range) fun _ => .inl ?_ <;>
    simp [Block.encCursor, hi, hcur, hcodep, hcode]

theorem Block.inv.after_encRead (h : b.inv) (hf : b.fsm = .encRead) (x : Byte) {i : Word}
    (hi : i.toNat = b.i.toNat + 1) :
    ({ b with byte := x, i := i, fsm := if x ≠ 0 then .encLit else .encFinZero } : Block).inv := by
  have hs : b.Serves .encode := h.serves (by rw [hf]; rfl)
  obtain ⟨-, -, ⟨hread, -⟩, -⟩ := h
  obtain ⟨hlt, hcursor, hcodep, h1, h254⟩ := hread hf
  obtain ⟨hi1, hiL⟩ : 1 ≤ i.toNat ∧ i.toNat ≤ b.L.toNat := by omega
  have hp : b.i.toNat = i.toNat - 1 := by omega
  rw [hp] at hcursor
  by_cases hx : x ≠ 0
  · rw [if_pos hx]
    exact Block.inv_of_encoding hs rfl
      ⟨nofun, fun _ => ⟨hi1, hiL, hcursor, hcodep, h1, h254, fun _ => hx, nofun⟩, nofun, nofun⟩
  · rw [if_neg hx]
    exact Block.inv_of_encoding hs rfl
      ⟨nofun, fun _ => ⟨hi1, hiL, hcursor, hcodep, h1, h254, nofun, fun _ => not_not.mp hx⟩, nofun, nofun⟩

theorem Block.inv.after_encLit (h : b.inv) (hf : b.fsm = .encLit) {cur : Word} {code : Byte}
    (hcur : cur.toNat = b.cur.toNat + 1) (hcode : code.toNat = b.code.toNat + 1) :
    (if code = Config.fullCode then { b with cur := cur, code := code, fsm := .encFinFull }
      else ({ b with cur := cur, code := code } : Block).toEncNext : Block).inv := by
  have hs : b.Serves .encode := h.serves (by rw [hf]; rfl)
  obtain ⟨-, -, ⟨-, hbyte, -⟩, -⟩ := h
  obtain ⟨hi1, hiL, ⟨hlo, hhi⟩, hcodep, h1, h254, -⟩ := hbyte (.inl hf)
  have hlo' : b.i.toNat + 1 ≤ cur.toNat := by omega
  have hhi' : 254 * (cur.toNat - (b.i.toNat + 1)) + (code.toNat - 1) ≤ b.i.toNat := by omega
  have hcodep' : b.codep.toNat < cur.toNat := by omega
  split
  next hfull =>
    rw [show code.toNat - 1 = 254 by rw [hfull]; rfl] at hhi'
    exact Block.inv_of_encoding hs rfl ⟨nofun, nofun, fun _ => ⟨hiL, ⟨hlo', hhi'⟩, hcodep', hfull⟩, nofun⟩
  next hfull =>
    have hne : code.toNat ≠ 255 := fun e => hfull (BitVec.eq_of_toNat_eq e)
    have hcode' : 1 ≤ code.toNat ∧ code.toNat ≤ 254 := by omega
    have hend : 254 * (cur.toNat - (b.i.toNat + 1)) < b.i.toNat := by omega
    exact Block.inv_toEncNext hs hiL ⟨hlo', hhi'⟩ hcodep' hcode' fun _ => .inr hend

theorem Block.inv.after_encFinZero (h : b.inv) (hf : b.fsm = .encFinZero) {cur : Word}
    (hcur : cur.toNat = b.cur.toNat + 1) :
    ({ b with code := 1, codep := b.cur, cur := cur } : Block).toEncNext.inv := by
  have hs : b.Serves .encode := h.serves (by rw [hf]; rfl)
  obtain ⟨-, -, ⟨-, hbyte, -⟩, -⟩ := h
  obtain ⟨hi1, hiL, ⟨hlo, hhi⟩, -⟩ := hbyte (.inr hf)
  have hlo' : b.i.toNat + 1 ≤ cur.toNat := by omega
  have hend : 254 * (cur.toNat - (b.i.toNat + 1)) < b.i.toNat := by omega
  exact Block.inv_toEncNext hs hiL ⟨hlo', hend.le⟩ (hcur ▸ Nat.lt_succ_self _) code_one_range fun _ => .inr hend

theorem Block.inv.after_encFinFull (h : b.inv) (hf : b.fsm = .encFinFull) (hlt : b.i.toNat < b.L.toNat) {cur : Word}
    (hcur : cur.toNat = b.cur.toNat + 1) :
    ({ b with code := 1, codep := b.cur, cur := cur } : Block).toEncNext.inv := by
  have hs : b.Serves .encode := h.serves (by rw [hf]; rfl)
  obtain ⟨-, -, ⟨-, -, hfull, -⟩, -⟩ := h
  obtain ⟨-, ⟨hlo, hhi⟩, -⟩ := hfull hf
  have hlo' : b.i.toNat + 1 ≤ cur.toNat := by omega
  have hhi' : 254 * (cur.toNat - (b.i.toNat + 1)) ≤ b.i.toNat := by omega
  exact Block.inv_toEncNext hs hlt.le ⟨hlo', hhi'⟩ (hcur ▸ Nat.lt_succ_self _) code_one_range
    fun he => absurd (congrArg BitVec.toNat he) hlt.ne

/-- At the end of the input a full block reserves no slot (41_encoder.md R101). -/
theorem Block.inv.after_encFinFull_at_end (h : b.inv) (hf : b.fsm = .encFinFull) (hle : b.L.toNat ≤ b.i.toNat) :
    ({ b with code := 1, codep := b.cur } : Block).toEncNext.inv := by
  have hs : b.Serves .encode := h.serves (by rw [hf]; rfl)
  obtain ⟨-, -, ⟨-, -, hfull, -⟩, -⟩ := h
  obtain ⟨hiL, ⟨hlo, hhi⟩, -⟩ := hfull hf
  have he : b.i = b.L := BitVec.eq_of_toNat_eq (by omega)
  rw [he] at hlo hhi
  have hend : 254 * (b.cur.toNat - (b.L.toNat + 1)) < b.L.toNat := by omega
  rw [Block.toEncNext_of_le (b := { b with code := 1, codep := b.cur }) hle]
  exact Block.inv_of_encoding hs rfl
    ⟨nofun, nofun, nofun, fun _ => ⟨he, hlo, .inr hend, le_refl _, code_one_range⟩⟩

theorem Block.inv.after_encFinal (h : b.inv) (hf : b.fsm = .encFinal) : ({ b with fsm := .encDelim } : Block).inv := by
  have hs : b.Serves .encode := h.serves (by rw [hf]; rfl)
  obtain ⟨-, -, ⟨-, -, -, hend⟩, -⟩ := h
  exact Block.inv_of_encoding hs rfl ⟨nofun, nofun, nofun, fun _ => hend (.inl hf)⟩

/-- The delimiter is the last of at most NMAX(L) bytes (00_scope.md R10). -/
theorem Block.inv.after_encDelim (h : b.inv) (hf : b.fsm = .encDelim) {cur : Word}
    (hcur : cur.toNat = b.cur.toNat + 1) : ({ b with cur := cur, fsm := .complete } : Block).inv := by
  have hs : b.Serves .encode := h.serves (by rw [hf]; rfl)
  obtain ⟨-, -, ⟨-, -, -, hend⟩, -⟩ := h
  obtain ⟨-, hlo, hhi, -⟩ := hend (.inr hf)
  have hbound : cur.toNat ≤ nmax b.L.toNat := by
    unfold nmax Config.fullRun
    split <;> omega
  exact Block.inv_of_complete hs rfl hbound

end Encoding

/-! The block after each Engine step of a DECODE (42_decoder.md R118 to R121). -/

section Decoding
variable {b : Block}

theorem Block.toDecNext_of_ge (h : b.L.toNat ≤ b.i.toNat) : b.toDecNext = { b with fsm := .complete } := by
  rw [Block.toDecNext, Block.decNext, if_neg (BitVec.not_lt.mpr h)]

theorem Block.toDecNext_of_block_eq (h : b.i.toNat < b.L.toNat) (hb : b.block = 0) :
    b.toDecNext = { b with fsm := .decCode } := by
  rw [Block.toDecNext, Block.decNext, if_pos (BitVec.lt_def.mpr h), if_pos hb]

theorem Block.toDecNext_of_block_ne (h : b.i.toNat < b.L.toNat) (hb : b.block ≠ 0) :
    b.toDecNext = { b with fsm := .decRead } := by
  rw [Block.toDecNext, Block.decNext, if_pos (BitVec.lt_def.mpr h), if_neg hb]

/-- `dec_next` (42_decoder.md R117) enters the ranges of DEC_CODE or DEC_READ, or completes at the end of the input. -/
theorem Block.inv_toDecNext (hs : b.Serves .decode) (hi : b.i.toNat ≤ b.L.toNat) (hcur : b.cur.toNat + 1 ≤ b.i.toNat)
    (h254 : b.block.toNat ≤ 254) : b.toDecNext.inv := by
  by_cases hlt : b.i.toNat < b.L.toNat
  · by_cases hb : b.block = 0
    · rw [Block.toDecNext_of_block_eq hlt hb]
      exact Block.inv_of_decoding hs rfl ⟨fun _ => ⟨hlt, hb, .inr hcur⟩, nofun, nofun, nofun⟩
    · have h1 : 1 ≤ b.block.toNat := Nat.one_le_iff_ne_zero.mpr fun e => hb (BitVec.eq_of_toNat_eq e)
      rw [Block.toDecNext_of_block_ne hlt hb]
      exact Block.inv_of_decoding hs rfl ⟨nofun, nofun, fun _ => ⟨hlt, h1, h254, hcur⟩, nofun⟩
  · have hbound : b.cur.toNat ≤ b.L.toNat := by omega
    rw [Block.toDecNext_of_ge (by omega)]
    exact Block.inv_of_complete hs rfl hbound

/-- `dec_init` (42_decoder.md R116) enters the ranges of DEC_CODE, or completes an empty source. -/
theorem Block.inv_toDecNext_at_start (hs : b.Serves .decode) (hi : b.i = 0) (hcur : b.cur = 0) (hblock : b.block = 0)
    (hz : b.zpend = false) : b.toDecNext.inv := by
  by_cases hlt : b.i.toNat < b.L.toNat
  · rw [Block.toDecNext_of_block_eq hlt hblock]
    exact Block.inv_of_decoding hs rfl ⟨fun _ => ⟨hlt, hblock, .inl ⟨hi, hcur, hz⟩⟩, nofun, nofun, nofun⟩
  · have hbound : b.cur.toNat ≤ b.L.toNat := by simp [hcur]
    rw [Block.toDecNext_of_ge (by omega)]
    exact Block.inv_of_complete hs rfl hbound

/-- A non-zero code byte announces at most 254 literals (42_decoder.md R118). -/
theorem toNat_sub_one_le {c : Byte} (hc : c ≠ 0) : (c - 1).toNat ≤ 254 := by bv_omega

theorem Block.inv.after_decCode (h : b.inv) (hf : b.fsm = .decCode) (c : Byte) {i : Word}
    (hi : i.toNat = b.i.toNat + 1) : (({ b with i := i } : Block).takeCode c).inv := by
  have hs : b.Serves .decode := h.serves (by rw [hf]; rfl)
  obtain ⟨-, -, -, hcode, -⟩ := h
  obtain ⟨hlt, -, hcur⟩ := hcode hf
  have hiL : i.toNat ≤ b.L.toNat := by omega
  have hcur1 : b.cur.toNat + 1 ≤ i.toNat := by
    obtain ⟨-, h0, -⟩ | h0 := hcur
    · rw [h0, hi]; exact Nat.le_add_left 1 _
    · omega
  by_cases hc : c = 0
  · have hbound : b.cur.toNat ≤ b.L.toNat := by omega
    rw [hc, Block.takeCode_zero]
    exact Block.inv_of_complete hs rfl hbound
  · obtain hz | hz := Bool.eq_false_or_eq_true b.zpend
    · have hcur2 : b.cur.toNat + 2 ≤ i.toNat := by
        obtain ⟨-, -, h0⟩ | h0 := hcur
        · exact absurd (hz.symm.trans h0) (by decide)
        · omega
      rw [Block.takeCode_pending (b := { b with i := i }) hc hz]
      exact Block.inv_of_decoding hs rfl ⟨nofun, fun _ => ⟨hiL, toNat_sub_one_le hc, hcur2⟩, nofun, nofun⟩
    · rw [Block.takeCode_none_pending (b := { b with i := i }) hc hz]
      exact Block.inv_toDecNext hs hiL hcur1 (toNat_sub_one_le hc)

theorem Block.inv.after_decZero (h : b.inv) (hf : b.fsm = .decZero) {cur : Word} (hcur : cur.toNat = b.cur.toNat + 1) :
    ({ b with cur := cur } : Block).toDecNext.inv := by
  have hs : b.Serves .decode := h.serves (by rw [hf]; rfl)
  obtain ⟨-, -, -, -, hzero, -⟩ := h
  obtain ⟨hiL, h254, hle⟩ := hzero hf
  have hle' : cur.toNat + 1 ≤ b.i.toNat := by omega
  exact Block.inv_toDecNext hs hiL hle' h254

theorem Block.inv.after_decRead (h : b.inv) (hf : b.fsm = .decRead) (x : Byte) {i : Word}
    (hi : i.toNat = b.i.toNat + 1) : ({ b with v := x, i := i, fsm := .decWrite } : Block).inv := by
  have hs : b.Serves .decode := h.serves (by rw [hf]; rfl)
  obtain ⟨-, -, -, -, -, hread, -⟩ := h
  obtain ⟨hlt, h1, h254, hle⟩ := hread hf
  obtain ⟨hiL, hle'⟩ : i.toNat ≤ b.L.toNat ∧ b.cur.toNat + 2 ≤ i.toNat := by omega
  exact Block.inv_of_decoding hs rfl ⟨nofun, nofun, nofun, fun _ => ⟨hiL, h1, h254, hle'⟩⟩

theorem Block.inv.after_decWrite (h : b.inv) (hf : b.fsm = .decWrite) {cur : Word}
    (hcur : cur.toNat = b.cur.toNat + 1) :
    ({ b with cur := cur, block := b.block - 1 } : Block).toDecNext.inv := by
  have hs : b.Serves .decode := h.serves (by rw [hf]; rfl)
  obtain ⟨-, -, -, -, -, -, hwrite⟩ := h
  obtain ⟨hiL, h1, h254, hle⟩ := hwrite hf
  have hle' : cur.toNat + 1 ≤ b.i.toNat := by omega
  have hblock : (b.block - 1).toNat ≤ 254 := by bv_omega
  exact Block.inv_toDecNext hs hiL hle' hblock

end Decoding

/-! The block after an accept, a rejection, a completion and a reset event. -/

section Events
variable {b : Block}

theorem Block.inv_after_complete (b : Block) :
    ({ b.completeFlags with resultLen := b.cur, fsm := .idle } : Block).inv :=
  Block.inv_of_idle rfl ⟨nofun, fun _ => rfl, nofun, nofun⟩

/-- Each code of a rejection is one of the four of 60_exceptions.md R136. -/
theorem ErrCode.bits_range {e : ErrCode} (he : e ≠ .none) : 1 ≤ e.bits.toNat ∧ e.bits.toNat ≤ 4 := by
  cases e with
  | none => exact absurd rfl he
  | illegalCmd | nullBuffer | addrRange | overlap => decide

theorem Block.inv_after_reject (hf : b.fsm = .idle) {e : ErrCode} (he : e ≠ .none) :
    ({ b.rejectFlags e with resultLen := 0 } : Block).inv :=
  have ⟨h1, h4⟩ := ErrCode.bits_range he
  Block.inv_of_idle hf ⟨fun hb => absurd hf (Block.busy_iff.mp hb), nofun, fun _ => ⟨rfl, h1, h4, rfl⟩, nofun⟩

theorem Block.inv_after_resetEvent (n : Nat) (b : Block) : (b.resetEvent n).inv :=
  Block.inv_of_idle rfl ⟨nofun, fun _ => rfl, nofun, fun _ _ => rfl⟩

/-- An accept starts the Engine inside its ranges (40_command.md R82, 41_encoder.md R96, 42_decoder.md R116). -/
theorem Block.inv_after_accept {cmd : Command} (hc : check cmd b.srcAddr b.srcLen b.dstAddr = .none) :
    ({ b.latch.acceptFlags.init cmd with duties := b.newDuty cmd :: b.duties } : Block).inv := by
  cases cmd with
  | illegal => exact absurd hc (by rw [check_illegal]; decide)
  | encode =>
    exact Block.inv_toEncNext_at_start
      (b := { b.latch.acceptFlags with
        i := 0, cur := 1, codep := 0, code := 1, duties := b.newDuty .encode :: b.duties })
      ⟨rfl, rfl, rfl, rfl, hc⟩ rfl rfl rfl rfl
  | decode =>
    exact Block.inv_toDecNext_at_start
      (b := { b.latch.acceptFlags with
        i := 0, cur := 0, block := 0, zpend := false, duties := b.newDuty .decode :: b.duties })
      ⟨rfl, rfl, rfl, rfl, hc⟩ rfl rfl rfl rfl

end Events

/-! The invariant of the machine along a step. One rule per state update, then per action. -/

section Updates
variable {s : State}

theorem State.inv.blk (h : s.inv) : s.blk.inv := h.1

theorem State.inv.withBlk {b : Block} (h : s.inv) (hb : b.inv) : (s.withBlk b).inv := ⟨hb, h.2⟩

theorem State.inv.writeByte (h : s.inv) {a : Nat} (ha : a < Config.memSize) (x : Byte) :
    (s.withMem (s.mem.writeByte a x)).inv :=
  have ⟨hblk, hpeers, hmem⟩ := h
  ⟨hblk, hpeers, Memory.wf_writeByte hmem ha⟩

theorem State.inv.writeBytes (h : s.inv) {a : Nat} {xs : List Byte} (ha : a + xs.length ≤ Config.memSize) :
    (s.withMem (s.mem.writeBytes a xs)).inv :=
  have ⟨hblk, hpeers, hmem⟩ := h
  ⟨hblk, hpeers, Memory.wf_writeBytes hmem ha⟩

theorem State.inv.swap (h : s.inv) {j : Nat} {b : Block} (hb : s.peers[j]? = some b) : (s.swap j b).inv := by
  obtain ⟨hblk, hpeers, hmem⟩ := h
  refine ⟨hpeers b (List.mem_of_getElem? hb), fun c hc => ?_, hmem⟩
  obtain hc | rfl := List.mem_or_eq_of_mem_set hc
  · exact hpeers c hc
  · exact hblk

theorem State.inv.unswap (h : s.inv) (j : Nat) : (s.unswap j).inv := by
  unfold State.unswap
  split
  next b hb => exact h.swap hb
  next => exact h

/-- A MemRead by the Engine keeps the invariant if the rest of the step does, from the same Engine state. -/
theorem State.inv.memRead (h : s.inv) {f : Fsm} (hf : s.blk.fsm = f) {a : Nat} {k : Byte → State → Result}
    (hk : ∀ x s', s'.inv → s'.blk.fsm = f → Ensures State.inv (k x s')) : Ensures State.inv (memRead a s k) :=
  ensures_memRead h fun x => hk x _ h hf

/-- The same of a MemWrite, which is inside the memory. -/
theorem State.inv.memWrite (h : s.inv) {f : Fsm} (hf : s.blk.fsm = f) {a : Nat} {x : Byte} {k : State → Result}
    (hk : ∀ s', s'.inv → s'.blk.fsm = f → Ensures State.inv (k s')) : Ensures State.inv (memWrite a x s k) := by
  intro t ht
  obtain ⟨ha, ⟨-, hgo⟩ | ⟨-, rfl⟩⟩ := memWrite_next ht
  · exact hk ((s.withMem (s.mem.writeByte a x)).noteEngine .write a) (h.writeByte ha x) hf t hgo
  · exact h

theorem State.inv.ensures_withBlk {b : Block} (h : s.inv) (hb : b.inv) : Ensures State.inv (.next (s.withBlk b)) :=
  ensures_next.mpr (h.withBlk hb)

end Updates

/-! A value that fits its register is the register's value. -/

theorem ensures_fitWord_toNat {P : State → Prop} {n : Nat} {k : Word → Result}
    (hk : ∀ x : Word, x.toNat = n → Ensures P (k x)) : Ensures P (fitWord n k) := by
  intro t ht
  obtain ⟨hlt, hgo⟩ := fitWord_next ht
  exact hk _ (by rw [BitVec.toNat_ofNat, Nat.mod_eq_of_lt hlt]) t hgo

theorem ensures_fitByte_toNat {P : State → Prop} {n : Nat} {k : Byte → Result}
    (hk : ∀ x : Byte, x.toNat = n → Ensures P (k x)) : Ensures P (fitByte n k) := by
  intro t ht
  obtain ⟨hlt, hgo⟩ := fitByte_next ht
  exact hk _ (by rw [BitVec.toNat_ofNat, Nat.mod_eq_of_lt hlt]) t hgo

/-! The Engine's steps. -/

section EngineStepsInv
variable {s : State}

theorem encReadStep_inv (h : s.inv) (hf : s.blk.fsm = .encRead) : Ensures State.inv (encReadStep s) :=
  h.memRead hf fun x _ hs hf => ensures_fitWord_toNat fun _ hi => hs.ensures_withBlk (hs.blk.after_encRead hf x hi)

theorem encLitStep_inv (h : s.inv) (hf : s.blk.fsm = .encLit) : Ensures State.inv (encLitStep s) :=
  h.memWrite hf fun _ hs hf => ensures_fitWord_toNat fun _ hcur => ensures_fitByte_toNat fun _ hcode =>
    hs.ensures_withBlk (hs.blk.after_encLit hf hcur hcode)

theorem encFinZeroStep_inv (h : s.inv) (hf : s.blk.fsm = .encFinZero) : Ensures State.inv (encFinZeroStep s) :=
  h.memWrite hf fun _ hs hf => ensures_fitWord_toNat fun _ hcur =>
    hs.ensures_withBlk (hs.blk.after_encFinZero hf hcur)

theorem encFinFullStep_inv (h : s.inv) (hf : s.blk.fsm = .encFinFull) : Ensures State.inv (encFinFullStep s) := by
  refine h.memWrite hf fun s' hs hf => ?_
  by_cases hlt : s'.blk.i < s'.blk.L
  · rw [if_pos hlt]
    exact ensures_fitWord_toNat fun _ hcur => hs.ensures_withBlk (hs.blk.after_encFinFull hf hlt hcur)
  · rw [if_neg hlt]
    exact hs.ensures_withBlk (hs.blk.after_encFinFull_at_end hf (BitVec.not_lt.mp hlt))

theorem encFinalStep_inv (h : s.inv) (hf : s.blk.fsm = .encFinal) : Ensures State.inv (encFinalStep s) :=
  h.memWrite hf fun _ hs hf => hs.ensures_withBlk (hs.blk.after_encFinal hf)

theorem encDelimStep_inv (h : s.inv) (hf : s.blk.fsm = .encDelim) : Ensures State.inv (encDelimStep s) :=
  h.memWrite hf fun _ hs hf => ensures_fitWord_toNat fun _ hcur =>
    hs.ensures_withBlk (hs.blk.after_encDelim hf hcur)

theorem decCodeStep_inv (h : s.inv) (hf : s.blk.fsm = .decCode) : Ensures State.inv (decCodeStep s) :=
  h.memRead hf fun c _ hs hf => ensures_fitWord_toNat fun _ hi =>
    hs.ensures_withBlk (hs.blk.after_decCode hf c hi)

theorem decZeroStep_inv (h : s.inv) (hf : s.blk.fsm = .decZero) : Ensures State.inv (decZeroStep s) :=
  h.memWrite hf fun _ hs hf => ensures_fitWord_toNat fun _ hcur =>
    hs.ensures_withBlk (hs.blk.after_decZero hf hcur)

theorem decReadStep_inv (h : s.inv) (hf : s.blk.fsm = .decRead) : Ensures State.inv (decReadStep s) :=
  h.memRead hf fun x _ hs hf => ensures_fitWord_toNat fun _ hi => hs.ensures_withBlk (hs.blk.after_decRead hf x hi)

theorem decWriteStep_inv (h : s.inv) (hf : s.blk.fsm = .decWrite) : Ensures State.inv (decWriteStep s) :=
  h.memWrite hf fun _ hs hf => ensures_fitWord_toNat fun _ hcur =>
    ensures_ite (ensures_fault _) (hs.ensures_withBlk (hs.blk.after_decWrite hf hcur))

theorem completeOp_inv (h : s.inv) : Ensures State.inv (completeOp s) :=
  h.ensures_withBlk s.blk.inv_after_complete

end EngineStepsInv

theorem engineStep_inv (s : State) (h : s.inv) : Ensures State.inv (engineStep s) := by
  cases hf : s.blk.fsm with
  | idle => rw [engineStep_idle hf]; exact ensures_next.mpr h
  | encRead => rw [engineStep_encRead hf]; exact encReadStep_inv h hf
  | encLit => rw [engineStep_encLit hf]; exact encLitStep_inv h hf
  | encFinZero => rw [engineStep_encFinZero hf]; exact encFinZeroStep_inv h hf
  | encFinFull => rw [engineStep_encFinFull hf]; exact encFinFullStep_inv h hf
  | encFinal => rw [engineStep_encFinal hf]; exact encFinalStep_inv h hf
  | encDelim => rw [engineStep_encDelim hf]; exact encDelimStep_inv h hf
  | decCode => rw [engineStep_decCode hf]; exact decCodeStep_inv h hf
  | decZero => rw [engineStep_decZero hf]; exact decZeroStep_inv h hf
  | decRead => rw [engineStep_decRead hf]; exact decReadStep_inv h hf
  | decWrite => rw [engineStep_decWrite hf]; exact decWriteStep_inv h hf
  | complete => rw [engineStep_complete hf]; exact completeOp_inv h

/-! The instructions, the register port, and the reset event. -/

theorem writeCommand_inv (w : Word) (s : State) (h : s.inv) : Ensures State.inv (writeCommand w s) := by
  obtain ⟨-, hgo⟩ | ⟨-, hc, hgo⟩ | ⟨hb, he, hgo⟩ := writeCommand_cases w s
  · rw [hgo]; exact ensures_next.mpr h
  · rw [hgo]; exact ensures_next.mpr (h.withBlk (Block.inv_after_accept hc))
  · rw [hgo]; exact h.ensures_withBlk (Block.inv_after_reject (Block.busy_eq_false_iff.mp hb) he)

/-- The duties end only at a STATUS read with BUSY = 0, so a busy block keeps its own (20_memory.md R63). -/
theorem execRdStatus_inv (s : State) (h : s.inv) : Ensures State.inv (execRdStatus s) := by
  refine ensures_next.mpr (show (if s.blk.busy then s else s.withBlk { s.blk with duties := [] }).inv from ?_)
  split
  next => exact h
  next hb =>
    obtain ⟨hstatus, -⟩ := h.blk
    exact h.withBlk (Block.inv_of_idle (Block.busy_eq_false_iff.mp (Bool.eq_false_iff.mpr hb)) hstatus)

theorem execRdResultLen_inv (s : State) (h : s.inv) : Ensures State.inv (execRdResultLen s) :=
  ensures_ite (ensures_next.mpr h) (ensures_next.mpr h)

theorem exec_inv (i : Instr) (s : State) (h : s.inv) : Ensures State.inv (exec i s) := by
  cases i with
  | encode => exact writeCommand_inv _ s h
  | decode => exact writeCommand_inv _ s h
  | wrCmd w => exact writeCommand_inv w s h
  | rdStatus => exact execRdStatus_inv s h
  | rdResultLen => exact execRdResultLen_inv s h
  | wrSrcAddr x | wrSrcLen x | wrDstAddr x => exact h.ensures_withBlk h.1
  | rdSrcAddr | rdSrcLen | rdDstAddr => exact ensures_next.mpr h

theorem windowStep_inv (x : Bus) (s : State) (h : s.inv) : Ensures State.inv (windowStep x s) := by
  cases hd : decode s.blk.port.base x with
  | ok i => rw [windowStep_of_ok hd]; exact exec_inv i s h
  | error e => rw [windowStep_of_error hd]; exact ensures_next.mpr h

theorem resetStep_inv (s : State) (h : s.inv) : Ensures State.inv (resetStep s) :=
  ensures_next.mpr (h.withBlk (s.blk.inv_after_resetEvent s.draws))

/-! The turns. -/

/-- An action that keeps the invariant in focus keeps it at every block. -/
theorem atBlock_inv {f : State → Result} {absent : Result} {s : State} (k : Nat) (h : s.inv)
    (hf : ∀ s, s.inv → Ensures State.inv (f s)) (ha : Ensures State.inv absent) :
    Ensures State.inv (atBlock k f absent s) := by
  cases k with
  | zero => exact hf s h
  | succ j =>
    cases hb : s.peers[j]? with
    | none => rw [atBlock_of_absent f absent hb]; exact ha
    | some b =>
      rw [atBlock_of_present f absent hb]
      exact ensures_andThen (hf _ (h.swap hb)) fun _ ht => ensures_next.mpr (ht.unswap j)

theorem regAccess_inv (x : Bus) (s : State) (h : s.inv) : Ensures State.inv (regAccess x s) := by
  cases hw : s.windowOf (busRegion x) with
  | none => simp [regAccess, hw]
  | some k =>
    rw [regAccess_of_window hw]
    exact atBlock_inv (s := s.noteBeside x) k h (windowStep_inv x) (ensures_fault _)

theorem memAccess_inv (x : Bus) (q : List HostAction) (s : State) (h : s.inv) :
    Ensures State.inv (memAccess x q s) := by
  unfold memAccess
  split
  next => exact ensures_fault _
  next hlt =>
    cases x with
    | rd a n => exact ensures_ite (ensures_next.mpr h) (ensures_next.mpr h)
    | wr a d => exact ensures_ite (ensures_next.mpr (h.writeBytes (Nat.not_lt.mp hlt))) (ensures_next.mpr h)

theorem hostTurn_inv (s : State) (h : s.inv) : Ensures State.inv (hostTurn s) := by
  have hreg (x : Bus) (q : List HostAction) : Ensures State.inv (regAccess x (s.withQueue q)) :=
    regAccess_inv x (s.withQueue q) h
  unfold hostTurn
  split
  next => exact ensures_next.mpr h
  next x q _ => exact hreg x q
  next x q _ => exact ensures_ite (hreg x q) (memAccess_inv x q s h)
  next k q _ =>
    have hread : Ensures State.inv (atBlock k (exec .rdStatus) (.fault .noWindow) (s.withQueue q)) :=
      atBlock_inv (s := s.withQueue q) k h (exec_inv .rdStatus) (ensures_fault _)
    refine ensures_andThen hread fun t ht => ensures_next.mpr ?_
    split
    · exact ht
    · exact ht

theorem runTurn_inv (t : Turn) (s : State) (h : s.inv) : Ensures State.inv (runTurn t s) := by
  cases t with
  | host => exact hostTurn_inv s h
  | engine k => exact atBlock_inv k h engineStep_inv (ensures_next.mpr h)
  | reset k => exact atBlock_inv k h resetStep_inv (ensures_next.mpr h)

/-- Settles O39: each turn keeps the invariant of the block it acts on, leaves the other blocks alone, and writes memory
only inside its 2^32 cells. -/
theorem stepKeepsTheInvariant : Obligations.StepKeepsTheInvariant := by
  intro s t h hstep
  cases hs : s.sched with
  | nil => exact runTurn_inv (defaultTurn s) s h t (step_of_none_listed hs ▸ hstep)
  | cons u us => exact runTurn_inv u (s.withSched us) h t (step_of_listed hs ▸ hstep)

/-! The reset state (10_state.md R34). -/

/-- Settles O38: the reset state is idle, with no flag and RESULT_LEN 0. -/
theorem resetStateMeetsTheInvariant : Obligations.ResetStateMeetsTheInvariant :=
  ⟨Block.inv_of_idle rfl ⟨nofun, fun _ => rfl, nofun, fun _ _ => rfl⟩, nofun, Memory.wf_reset⟩

/-- Settles O35: the literal reset state holds these values. -/
theorem resetLeavesHostVisibleRegistersZero : Obligations.ResetLeavesHostVisibleRegistersZero :=
  ⟨by decide, rfl, rfl, rfl, rfl, rfl, rfl⟩

/-- A command word that fails the check is rejected straight after reset, whose parameter registers are 0. -/
theorem writeCommand_reset {w : Word} {e : ErrCode} (hc : check (decodeCmd w) 0 0 0 = e) (he : e ≠ .none) :
    writeCommand w State.reset = reject e State.reset := writeCommand_of_reject rfl hc he

/-- Settles O36: both commands find absent buffers, and every other word is illegal. -/
theorem commandAfterResetIsRejected : Obligations.CommandAfterResetIsRejected := by
  refine ⟨⟨_, writeCommand_reset (w := 1) (e := .nullBuffer) rfl (by decide), by decide, rfl⟩,
    ⟨_, writeCommand_reset (w := 2) (e := .nullBuffer) rfl (by decide), by decide, rfl⟩, fun w h1 h2 => ?_⟩
  have hc : check (decodeCmd w) 0 0 0 = .illegalCmd := by
    rw [(decodeCmd_eq_illegal_iff w).mpr ⟨h1, h2⟩, check_illegal]
  exact ⟨_, writeCommand_reset hc (by decide), by decide, rfl⟩

/-! What the course of an operation depends on (10_state.md R33): the registers that are live in an Engine state. -/

/-- The block with 0 in each Engine register that is dead in the Engine state `f`: written again before the next step
that reads it. -/
def Block.liveAt (f : Fsm) (b : Block) : Block :=
  match f with
  | .idle =>
    { b with
      S := 0, L := 0, D := 0, i := 0, cur := 0, codep := 0, code := 0, byte := 0, block := 0, zpend := false, v := 0 }
  | .encLit => { b with block := 0, zpend := false, v := 0 }
  | .encRead | .encFinZero | .encFinFull | .encFinal | .encDelim =>
    { b with byte := 0, block := 0, zpend := false, v := 0 }
  | .decWrite => { b with codep := 0, code := 0, byte := 0 }
  | .decCode | .decZero | .decRead => { b with codep := 0, code := 0, byte := 0, v := 0 }
  | .complete => { b with codep := 0, code := 0, byte := 0, block := 0, zpend := false, v := 0 }

/-- The block without its dead registers. -/
def Block.live (b : Block) : Block := b.liveAt b.fsm

/-- The machine without the dead registers of the block in focus. -/
def State.live (s : State) : State := s.withBlk s.blk.live

@[simp] theorem Block.liveAt_fsm (f : Fsm) (b : Block) : (b.liveAt f).fsm = b.fsm := by cases f <;> rfl

theorem Block.liveAt_liveAt (f : Fsm) (b : Block) : (b.liveAt f).liveAt f = b.liveAt f := by cases f <;> rfl

@[simp] theorem Block.liveAt_port (f : Fsm) (b : Block) : (b.liveAt f).port = b.port := by cases f <;> rfl

@[simp] theorem Block.liveAt_statusWord (f : Fsm) (b : Block) : (b.liveAt f).statusWord = b.statusWord := by
  cases f <;> rfl

@[simp] theorem Block.liveAt_resultLen (f : Fsm) (b : Block) : (b.liveAt f).resultLen = b.resultLen := by
  cases f <;> rfl

theorem State.live_eq {s : State} {f : Fsm} (hf : s.blk.fsm = f) : s.live = s.withBlk (s.blk.liveAt f) := by
  rw [State.live, Block.live, hf]

theorem State.live_withBlk_liveAt {s : State} {f : Fsm} (hf : s.blk.fsm = f) :
    s.live = (s.withBlk (s.blk.liveAt f)).live := by
  have hf' : (s.withBlk (s.blk.liveAt f)).blk.fsm = f := (Block.liveAt_fsm f s.blk).trans hf
  rw [State.live_eq hf, State.live_eq hf', State.withBlk_withBlk, State.withBlk_blk, Block.liveAt_liveAt]

/-- Two results that differ in dead registers at most. -/
def Alike (r r' : Result) : Prop := andThen r (.next ·.live) = andThen r' (.next ·.live)

section AlikeRules
variable {s s' : State}

theorem Alike.refl (r : Result) : Alike r r := rfl

theorem alike_next (h : s.live = s'.live) : Alike (.next s) (.next s') := congrArg Host.Outcome.next h

theorem Alike.live_eq {r r' : Result} (h : Alike r r') (hs : r = .next s) (hs' : r' = .next s') : s.live = s'.live := by
  subst hs hs'
  exact Host.Outcome.next.inj h

theorem alike_ite {c : Prop} [Decidable c] {r₁ r₂ r₁' r₂' : Result} (h : Alike r₁ r₁') (h' : Alike r₂ r₂') :
    Alike (if c then r₁ else r₂) (if c then r₁' else r₂') := by
  split
  · exact h
  · exact h'

theorem alike_fitWord {n : Nat} {k k' : Word → Result} (h : ∀ x, Alike (k x) (k' x)) :
    Alike (fitWord n k) (fitWord n k') := alike_ite (h _) (.refl _)

theorem alike_fitByte {n : Nat} {k k' : Byte → Result} (h : ∀ x, Alike (k x) (k' x)) :
    Alike (fitByte n k) (fitByte n k') := alike_ite (h _) (.refl _)

/-- An action that does not tell alike states apart, after alike results. -/
theorem alike_andThen {r r' : Result} {f : State → Result} (h : Alike r r') (hf : ∀ s, Alike (f s) (f s.live)) :
    Alike (andThen r f) (andThen r' f) := by
  have hlive (r : Result) : Alike (andThen r f) (andThen (andThen r (.next ·.live)) f) := by
    cases r with
    | next s => exact hf s
    | fault e => rfl
    | refused e => rfl
  exact (hlive r).trans ((congrArg (fun r => andThen (andThen r f) (.next ·.live)) h).trans (hlive r').symm)

variable (h : s.live = s'.live)
include h

theorem port_eq_of_live_eq : s.blk.port = s'.blk.port := by
  simpa [State.live, Block.live] using congrArg (·.blk.port) h

/-- What an operation shows to the Host is live in every Engine state. -/
theorem visible_of_live_eq :
    s'.mem = s.mem ∧ s'.blk.fsm = s.blk.fsm ∧ s'.blk.statusWord = s.blk.statusWord ∧
      s'.blk.resultLen = s.blk.resultLen ∧ s'.faults = s.faults := by
  have hfsm := congrArg (·.blk.fsm) h.symm
  have hstatus := congrArg (·.blk.statusWord) h.symm
  have hresult := congrArg (·.blk.resultLen) h.symm
  simp only [State.live, Block.live, State.withBlk_blk, Block.liveAt_fsm, Block.liveAt_statusWord,
    Block.liveAt_resultLen] at hfsm hstatus hresult
  exact ⟨congrArg (·.mem) h.symm, hfsm, hstatus, hresult, congrArg (·.faults) h.symm⟩

theorem alike_memRead {a : Nat} {k : Byte → State → Result}
    (hk : ∀ x, Alike (k x (s.noteEngine .read a)) (k x (s'.noteEngine .read a))) :
    Alike (memRead a s k) (memRead a s' k) := by
  have hmem : s.mem = s'.mem := congrArg (·.mem) h
  unfold memRead
  rw [← port_eq_of_live_eq h, ← hmem]
  exact alike_ite (.refl _) (alike_ite (hk _) (alike_next h))

theorem alike_memWrite {a : Nat} {x : Byte} {k : State → Result}
    (hk : Alike (k ((s.withMem (s.mem.writeByte a x)).noteEngine .write a))
      (k ((s'.withMem (s'.mem.writeByte a x)).noteEngine .write a))) :
    Alike (memWrite a x s k) (memWrite a x s' k) := by
  unfold memWrite
  rw [← port_eq_of_live_eq h]
  exact alike_ite (.refl _) (alike_ite hk (alike_next h))

end AlikeRules

/-- `enc_next` (41_encoder.md R97) reads no dead register. -/
theorem Block.toEncNext_live (b : Block) (byte block : Byte) (zpend : Bool) (v : Byte) :
    b.toEncNext.live = ({ b with byte := byte, block := block, zpend := zpend, v := v } : Block).toEncNext.live := by
  by_cases h : b.i.toNat < b.L.toNat
  · rw [Block.toEncNext_of_lt h, Block.toEncNext_of_lt (by exact h)]; rfl
  · rw [Block.toEncNext_of_le (Nat.not_lt.mp h), Block.toEncNext_of_le (by exact Nat.not_lt.mp h)]; rfl

/-- `dec_next` (42_decoder.md R117) reads no dead register. -/
theorem Block.toDecNext_live (b : Block) (codep : Word) (code byte v : Byte) :
    b.toDecNext.live = ({ b with codep := codep, code := code, byte := byte, v := v } : Block).toDecNext.live := by
  by_cases h : b.i.toNat < b.L.toNat
  · by_cases hb : b.block = 0
    · rw [Block.toDecNext_of_block_eq h hb, Block.toDecNext_of_block_eq (by exact h) (by exact hb)]; rfl
    · rw [Block.toDecNext_of_block_ne h hb, Block.toDecNext_of_block_ne (by exact h) (by exact hb)]; rfl
  · rw [Block.toDecNext_of_ge (Nat.not_lt.mp h), Block.toDecNext_of_ge (by exact Nat.not_lt.mp h)]; rfl

/-- What DEC_CODE does with a code byte (42_decoder.md R118) reads no dead register. -/
theorem Block.takeCode_live (c : Byte) (b : Block) (codep : Word) (code byte v : Byte) :
    (b.takeCode c).live =
      (({ b with codep := codep, code := code, byte := byte, v := v } : Block).takeCode c).live := by
  by_cases hc : c = 0
  · subst hc; rfl
  · obtain hz | hz := Bool.eq_false_or_eq_true b.zpend
    · rw [Block.takeCode_pending hc hz, Block.takeCode_pending hc (by exact hz)]; rfl
    · rw [Block.takeCode_none_pending hc hz, Block.takeCode_none_pending hc (by exact hz)]
      exact Block.toDecNext_live _ _ _ _ _

section EngineStepsAlike
variable {s : State}

theorem encReadStep_alike (hf : s.blk.fsm = .encRead) :
    Alike (encReadStep s) (encReadStep (s.withBlk (s.blk.liveAt .encRead))) := by
  refine alike_memRead (State.live_withBlk_liveAt hf) fun x => alike_fitWord fun i => alike_next ?_
  by_cases hx : x ≠ 0
  · rw [if_pos hx]; rfl
  · rw [if_neg hx]; rfl

theorem encLitStep_alike (hf : s.blk.fsm = .encLit) :
    Alike (encLitStep s) (encLitStep (s.withBlk (s.blk.liveAt .encLit))) := by
  refine alike_memWrite (State.live_withBlk_liveAt hf) <| alike_fitWord fun _ => alike_fitByte fun code => alike_next ?_
  by_cases hfull : code = Config.fullCode
  · simp only [if_pos hfull]; rfl
  · simp only [if_neg hfull]; exact congrArg (State.withBlk _) (Block.toEncNext_live _ _ _ _ _)

theorem encFinZeroStep_alike (hf : s.blk.fsm = .encFinZero) :
    Alike (encFinZeroStep s) (encFinZeroStep (s.withBlk (s.blk.liveAt .encFinZero))) :=
  alike_memWrite (State.live_withBlk_liveAt hf) <| alike_fitWord fun _ => alike_next <|
    congrArg (State.withBlk _) (Block.toEncNext_live _ _ _ _ _)

theorem encFinFullStep_alike (hf : s.blk.fsm = .encFinFull) :
    Alike (encFinFullStep s) (encFinFullStep (s.withBlk (s.blk.liveAt .encFinFull))) :=
  alike_memWrite (State.live_withBlk_liveAt hf) <| alike_ite
    (alike_fitWord fun _ => alike_next <| congrArg (State.withBlk _) (Block.toEncNext_live _ _ _ _ _))
    (alike_next <| congrArg (State.withBlk _) (Block.toEncNext_live _ _ _ _ _))

theorem encFinalStep_alike (hf : s.blk.fsm = .encFinal) :
    Alike (encFinalStep s) (encFinalStep (s.withBlk (s.blk.liveAt .encFinal))) :=
  alike_memWrite (State.live_withBlk_liveAt hf) (alike_next rfl)

theorem encDelimStep_alike (hf : s.blk.fsm = .encDelim) :
    Alike (encDelimStep s) (encDelimStep (s.withBlk (s.blk.liveAt .encDelim))) :=
  alike_memWrite (State.live_withBlk_liveAt hf) <| alike_fitWord fun _ => alike_next rfl

theorem decCodeStep_alike (hf : s.blk.fsm = .decCode) :
    Alike (decCodeStep s) (decCodeStep (s.withBlk (s.blk.liveAt .decCode))) :=
  alike_memRead (State.live_withBlk_liveAt hf) fun c => alike_fitWord fun _ => alike_next <|
    congrArg (State.withBlk _) (Block.takeCode_live c _ _ _ _ _)

theorem decZeroStep_alike (hf : s.blk.fsm = .decZero) :
    Alike (decZeroStep s) (decZeroStep (s.withBlk (s.blk.liveAt .decZero))) :=
  alike_memWrite (State.live_withBlk_liveAt hf) <| alike_fitWord fun _ => alike_next <|
    congrArg (State.withBlk _) (Block.toDecNext_live _ _ _ _ _)

theorem decReadStep_alike (hf : s.blk.fsm = .decRead) :
    Alike (decReadStep s) (decReadStep (s.withBlk (s.blk.liveAt .decRead))) :=
  alike_memRead (State.live_withBlk_liveAt hf) fun _ => alike_fitWord fun _ => alike_next rfl

theorem decWriteStep_alike (hf : s.blk.fsm = .decWrite) :
    Alike (decWriteStep s) (decWriteStep (s.withBlk (s.blk.liveAt .decWrite))) :=
  alike_memWrite (State.live_withBlk_liveAt hf) <| alike_fitWord fun _ => alike_ite (.refl _) <| alike_next <|
    congrArg (State.withBlk _) (Block.toDecNext_live _ _ _ _ _)

theorem completeOp_alike : Alike (completeOp s) (completeOp (s.withBlk (s.blk.liveAt .complete))) := alike_next rfl

end EngineStepsAlike

/-- No Engine step reads a dead register. -/
theorem engineStep_alike (s : State) : Alike (engineStep s) (engineStep s.live) := by
  have hlive {f : Fsm} (hf : s.blk.fsm = f) : (s.withBlk (s.blk.liveAt f)).blk.fsm = f :=
    (Block.liveAt_fsm f s.blk).trans hf
  rw [State.live, Block.live]
  cases hf : s.blk.fsm with
  | idle => rw [engineStep_idle hf, engineStep_idle (hlive hf)]; exact alike_next (State.live_withBlk_liveAt hf)
  | encRead => rw [engineStep_encRead hf, engineStep_encRead (hlive hf)]; exact encReadStep_alike hf
  | encLit => rw [engineStep_encLit hf, engineStep_encLit (hlive hf)]; exact encLitStep_alike hf
  | encFinZero => rw [engineStep_encFinZero hf, engineStep_encFinZero (hlive hf)]; exact encFinZeroStep_alike hf
  | encFinFull => rw [engineStep_encFinFull hf, engineStep_encFinFull (hlive hf)]; exact encFinFullStep_alike hf
  | encFinal => rw [engineStep_encFinal hf, engineStep_encFinal (hlive hf)]; exact encFinalStep_alike hf
  | encDelim => rw [engineStep_encDelim hf, engineStep_encDelim (hlive hf)]; exact encDelimStep_alike hf
  | decCode => rw [engineStep_decCode hf, engineStep_decCode (hlive hf)]; exact decCodeStep_alike hf
  | decZero => rw [engineStep_decZero hf, engineStep_decZero (hlive hf)]; exact decZeroStep_alike hf
  | decRead => rw [engineStep_decRead hf, engineStep_decRead (hlive hf)]; exact decReadStep_alike hf
  | decWrite => rw [engineStep_decWrite hf, engineStep_decWrite (hlive hf)]; exact decWriteStep_alike hf
  | complete => rw [engineStep_complete hf, engineStep_complete (hlive hf)]; exact completeOp_alike

theorem engineRun_succ (n : Nat) (s : State) : engineRun (n + 1) s = andThen (engineStep s) (engineRun n) := by
  simp only [engineRun]
  cases engineStep s <;> rfl

theorem engineRun_alike (n : Nat) (s : State) : Alike (engineRun n s) (engineRun n s.live) := by
  induction n generalizing s with
  | zero => exact alike_next (State.live_withBlk_liveAt rfl)
  | succ n ih =>
    rw [engineRun_succ, engineRun_succ]
    exact alike_andThen (engineStep_alike s) ih

/-! The start of an operation: while the Engine is idle, all its registers are dead. -/

/-- The block an accept leaves does not depend on the registers the Engine held. -/
theorem Block.accept_live (b : Block) {cmd : Command} (hcmd : cmd ≠ .illegal) :
    ({ b.latch.acceptFlags.init cmd with duties := b.newDuty cmd :: b.duties } : Block).live =
      ({ (b.liveAt .idle).latch.acceptFlags.init cmd with duties := b.newDuty cmd :: b.duties } : Block).live := by
  cases cmd with
  | illegal => exact absurd rfl hcmd
  | encode =>
    exact Block.toEncNext_live
      { b.latch.acceptFlags with
        i := 0, cur := 1, codep := 0, code := 1, duties := b.newDuty .encode :: b.duties } 0 0 false 0
  | decode =>
    exact Block.toDecNext_live
      { b.latch.acceptFlags with
        i := 0, cur := 0, block := 0, zpend := false, duties := b.newDuty .decode :: b.duties } 0 0 0 0

theorem accept_alike (s : State) {cmd : Command} (hcmd : cmd ≠ .illegal) :
    Alike (accept cmd s) (accept cmd (s.withBlk (s.blk.liveAt .idle))) :=
  alike_next <| congrArg (State.withBlk (s.recordIf (s.acceptRace (s.blk.newDuty cmd)) .hostRace))
    (Block.accept_live s.blk hcmd)

theorem writeCommand_alike {s : State} (hf : s.blk.fsm = .idle) (w : Word) :
    Alike (writeCommand w s) (writeCommand w s.live) := by
  have hb : s.blk.busy = false := Block.busy_eq_false_iff.mpr hf
  rw [State.live_eq hf]
  by_cases hc : check (decodeCmd w) s.blk.srcAddr s.blk.srcLen s.blk.dstAddr = .none
  · obtain ⟨hcmd, -⟩ := check_eq_none_iff.mp hc
    rw [writeCommand_of_accept hb hc, writeCommand_of_accept (by exact hb) (by exact hc)]
    exact accept_alike s hcmd
  · rw [writeCommand_of_reject hb rfl hc, writeCommand_of_reject (by exact hb) rfl (by exact hc)]
    refine alike_next ?_
    rw [State.live_eq (by exact hf), State.live_eq (by exact hf)]
    rfl

/-- Settles O59: the accept and the Engine's steps take alike states to alike states, and an idle Engine's registers
are all dead. -/
theorem operationIgnoresOldEngineRegisters : Obligations.OperationIgnoresOldEngineRegisters := by
  intro s s' t t' u u' b i n hi _ hf _ hb hs' ht ht' hu hu'
  subst hs'
  have hfb : b.fsm = .idle := (congrArg Block.fsm hb).trans hf
  have hstart : s.live = ({ s with blk := b } : State).live := by
    rw [State.live_eq hf, State.live_eq (s := { s with blk := b }) hfb]
    exact congrArg s.withBlk (congrArg (Block.liveAt .idle) hb).symm
  have hwrite (w : Word) : Alike (writeCommand w s) (writeCommand w { s with blk := b }) :=
    (writeCommand_alike hf w).trans (hstart ▸ (writeCommand_alike (s := { s with blk := b }) hfb w).symm)
  have hexec : Alike (exec i s) (exec i { s with blk := b }) := by
    obtain rfl | rfl := hi
    · exact hwrite _
    · exact hwrite _
  rw [ht, ht'] at hexec
  have hend : u.live = u'.live := (alike_andThen hexec (engineRun_alike n)).live_eq hu hu'
  exact visible_of_live_eq hend

end Sys2Proof.Machine

/-! PROOFS of 20_memory.md. The Engine's memory requests (R46, R52 to R54, R64), the Host's memory accesses (R47, R48,
R55), and the accesses and accepts that are a Host race (R63). -/

namespace Sys2Proof.Machine

/-! Where the Engine's requests lie (20_memory.md R46): inside the regions of the latched operands. -/

/-- Two regions with a common address meet. -/
theorem Region.meets_of_common {r q : Region} {c : Nat} (hr : r.1 ≤ c ∧ c < r.2) (hq : q.1 ≤ c ∧ c < q.2) :
    r.meets q = true :=
  Region.meets_iff.mpr (by omega)

section Requests
variable {b : Block} {cmd : Command}

/-- What the acceptance check says of the latched operands (40_command.md R83). -/
theorem Block.Serves.operands (h : b.Serves cmd) :
    1 ≤ b.D.toNat ∧ b.S.toNat + b.L.toNat ≤ 2 ^ 32 ∧ b.D.toNat + capOf cmd b.L.toNat ≤ 2 ^ 32 ∧
      (srcRegion b.S b.L).meets (dstRegion cmd b.L b.D) = false := by
  obtain ⟨-, -, -, -, hcheck⟩ := h
  obtain ⟨-, -, hD, hsrc, hdst, hapart⟩ := check_eq_none_iff.mp hcheck
  exact ⟨Nat.one_le_iff_ne_zero.mpr fun e => hD (BitVec.eq_of_toNat_eq e), hsrc, hdst, hapart⟩

/-- The encoder's cursors stay below CAP_ENC(L): F ≤ ceil(L / 254) (41_encoder.md R106, 00_scope.md R10). -/
theorem Block.inv.encCursors_lt (h : b.inv) (hf : b.fsm.cmd = some .encode) :
    b.cur.toNat < capEnc b.L.toNat ∧ b.codep.toNat < capEnc b.L.toNat := by
  obtain ⟨-, -, ⟨hread, hbyte, hfull, hend⟩, -⟩ := h
  unfold capEnc ceilDiv Config.fullRun
  cases hs : b.fsm with
  | encRead => obtain ⟨hi, ⟨hlo, hhi⟩, hcodep, -⟩ := hread hs; omega
  | encLit => obtain ⟨hi, hiL, ⟨hlo, hhi⟩, hcodep, -⟩ := hbyte (.inl hs); omega
  | encFinZero => obtain ⟨hi, hiL, ⟨hlo, hhi⟩, hcodep, -⟩ := hbyte (.inr hs); omega
  | encFinFull => obtain ⟨hi, ⟨hlo, hhi⟩, hcodep, -⟩ := hfull hs; omega
  | encFinal => obtain ⟨-, hlo, hhi, hcodep, -⟩ := hend (.inl hs); omega
  | encDelim => obtain ⟨-, hlo, hhi, hcodep, -⟩ := hend (.inr hs); omega
  | idle | decCode | decZero | decRead | decWrite | complete => simp [hs, Fsm.cmd] at hf

/-- The decoder's cursor stays below CAP_DEC(L) = L (42_decoder.md R125). -/
theorem Block.inv.decCursor_lt (h : b.inv) (hf : b.fsm.cmd = some .decode) : b.cur.toNat < capDec b.L.toNat := by
  obtain ⟨-, -, -, hcode, hzero, hread, hwrite⟩ := h
  unfold capDec
  cases hs : b.fsm with
  | decCode =>
    obtain ⟨hi, -, ⟨-, hcur, -⟩ | hcur⟩ := hcode hs
    · rw [hcur]; exact Nat.zero_lt_of_lt hi
    · omega
  | decZero => obtain ⟨hi, -, hcur⟩ := hzero hs; omega
  | decRead => obtain ⟨hi, -, -, hcur⟩ := hread hs; omega
  | decWrite => obtain ⟨hi, -, -, hcur⟩ := hwrite hs; omega
  | idle | encRead | encLit | encFinZero | encFinFull | encFinal | encDelim | complete => simp [hs, Fsm.cmd] at hf

/-- An Engine state's command is ENCODE or DECODE, and its output cursor is inside the destination. -/
theorem Block.inv.cur_lt_capOf (h : b.inv) (hf : b.fsm.cmd = some cmd) : b.cur.toNat < capOf cmd b.L.toNat := by
  cases cmd with
  | encode => exact (h.encCursors_lt hf).1
  | decode => exact h.decCursor_lt hf
  | illegal => cases hs : b.fsm <;> simp [hs, Fsm.cmd] at hf

/-- Another byte of output still counts in a register: D is not 0, so CAP is below 2^32. -/
theorem Block.inv.cur_succ_lt (h : b.inv) (hf : b.fsm.cmd = some cmd) : b.cur.toNat + 1 < 2 ^ 32 := by
  have hlt := h.cur_lt_capOf hf
  obtain ⟨hD, -, hdst, -⟩ := (h.serves hf).operands
  omega

/-- A read is of the next source byte (20_memory.md R53). -/
theorem Block.inv.read_request (h : b.inv) {a : Nat} (hr : b.request = some (.read, a)) :
    a = b.S.toNat + b.i.toNat ∧ b.i.toNat < b.L.toNat ∧ ∃ cmd, b.fsm.cmd = some cmd := by
  obtain ⟨-, -, ⟨hencRead, -⟩, hdecCode, -, hdecRead, -⟩ := h
  cases hs : b.fsm <;> simp [Block.request, hs] at hr <;> subst hr
  case encRead => exact ⟨rfl, (hencRead hs).1, _, rfl⟩
  case decCode => exact ⟨rfl, (hdecCode hs).1, _, rfl⟩
  case decRead => exact ⟨rfl, (hdecRead hs).1, _, rfl⟩

/-- A write is at a cursor of the destination (20_memory.md R54). -/
theorem Block.inv.write_request (h : b.inv) {a : Nat} (hr : b.request = some (.write, a)) :
    ∃ cmd, b.fsm.cmd = some cmd ∧ b.D.toNat ≤ a ∧ a < b.D.toNat + capOf cmd b.L.toNat := by
  have hin {cmd : Command} {n : Nat} (hn : n < capOf cmd b.L.toNat) :
      b.D.toNat ≤ b.D.toNat + n ∧ b.D.toNat + n < b.D.toNat + capOf cmd b.L.toNat :=
    ⟨Nat.le_add_right _ _, Nat.add_lt_add_left hn _⟩
  cases hs : b.fsm <;> simp [Block.request, hs] at hr <;> subst hr
  case encLit | encDelim => exact ⟨.encode, rfl, hin (h.cur_lt_capOf (by rw [hs]; rfl))⟩
  case encFinZero | encFinFull | encFinal => exact ⟨.encode, rfl, hin (h.encCursors_lt (by rw [hs]; rfl)).2⟩
  case decZero | decWrite => exact ⟨.decode, rfl, hin (h.cur_lt_capOf (by rw [hs]; rfl))⟩

/-- The `require` of MemRead and MemWrite (20_memory.md R52). -/
theorem Block.inv.request_lt (h : b.inv) {kind : AccessKind} {a : Nat} (hr : b.request = some (kind, a)) :
    a < Config.memSize := by
  unfold Config.memSize
  cases kind with
  | read =>
    obtain ⟨ha, hi, cmd, hf⟩ := h.read_request hr
    obtain ⟨-, hsrc, -⟩ := (h.serves hf).operands
    omega
  | write =>
    obtain ⟨cmd, hf, -, ha⟩ := h.write_request hr
    obtain ⟨-, -, hdst, -⟩ := (h.serves hf).operands
    omega

/-- While busy the newest duty holds the latched operands. -/
theorem Block.inv.newest_duty (h : b.inv) (hb : b.busy = true) {u : Duty} {r : List Duty} (hd : b.duties = u :: r) :
    u = { cmd := u.cmd, s := b.S, l := b.L, d := b.D } := by
  obtain ⟨-, ⟨-, hduty⟩, -⟩ := h
  exact (hduty u (by simp [hd]) hb).1

theorem Block.inv.exists_duty (h : b.inv) (hb : b.busy = true) : ∃ u r, b.duties = u :: r := by
  obtain ⟨-, ⟨hnil, -⟩, -⟩ := h
  refine List.exists_cons_of_ne_nil fun he => ?_
  rw [hnil he] at hb
  cases hb

/-- Only an Engine that is idle or about to complete has no memory request. -/
theorem Block.request_eq_none_iff : b.request = none ↔ b.fsm = .idle ∨ b.fsm = .complete := by
  cases hs : b.fsm <;> simp [Block.request, hs]

end Requests

/-! An Engine step is one access at its request, and a rest that always goes on. -/

/-- The result is a next state, and `P` holds of it. -/
def Answers (P : State → Prop) (r : Result) : Prop := ∃ t, r = .next t ∧ P t

section Answering
variable {P : State → Prop}

theorem answers_next {t : State} (h : P t) : Answers P (.next t) := ⟨t, rfl, h⟩

theorem answers_fitWord {n : Nat} {k : Word → Result} (hn : n < 2 ^ 32)
    (hk : ∀ x : Word, x.toNat = n → Answers P (k x)) : Answers P (fitWord n k) := by
  rw [fitWord_of_lt hn]
  exact hk _ (by rw [BitVec.toNat_ofNat, Nat.mod_eq_of_lt hn])

theorem answers_fitByte {n : Nat} {k : Byte → Result} (hn : n < 2 ^ 8) (hk : ∀ x, Answers P (k x)) :
    Answers P (fitByte n k) := by
  rw [fitByte_of_lt hn]
  exact hk _

end Answering

@[simp] theorem Block.takeCode_i (c : Byte) (b : Block) : (b.takeCode c).i = b.i := by
  by_cases hc : c = 0
  · rw [hc, Block.takeCode_zero]
  · cases hz : b.zpend with
    | true => rw [Block.takeCode_pending hc hz]
    | false => rw [Block.takeCode_none_pending hc hz, Block.toDecNext_i]

/-- The rest of a step that has read or written: no memory of its own, and `i` is `n`. -/
def State.GoesOn (s : State) (n : Nat) (r : Result) : Prop := Answers (fun t => t.mem = s.mem ∧ t.blk.i.toNat = n) r

theorem State.GoesOn.next {s : State} {n : Nat} {r : Result} {t : State} (h : s.GoesOn n r) (ht : r = .next t) :
    t.mem = s.mem ∧ t.blk.i.toNat = n := by
  obtain ⟨t', hr, hP⟩ := h
  cases hr.symm.trans ht
  exact hP

section Steps
variable {s : State}

/-- A step that reads counts the byte it has read (20_memory.md R53). -/
theorem engineStep_of_read_request (h : s.blk.inv) {a : Nat} (hr : s.blk.request = some (.read, a)) :
    ∃ k, engineStep s = memRead a s k ∧
      ∀ (x : Byte) (s' : State), s'.blk = s.blk → s'.GoesOn (s.blk.i.toNat + 1) (k x s') := by
  obtain ⟨-, hlt, -⟩ := h.read_request hr
  have hfit : s.blk.i.toNat + 1 < 2 ^ 32 := by omega
  cases hf : s.blk.fsm <;> simp [Block.request, hf] at hr <;> subst hr
  case encRead =>
    refine ⟨_, engineStep_encRead hf, fun x s' hb => ?_⟩
    exact answers_fitWord (hb ▸ hfit) fun i hi => answers_next ⟨rfl, hb ▸ hi⟩
  case decCode =>
    refine ⟨_, engineStep_decCode hf, fun c s' hb => ?_⟩
    exact answers_fitWord (hb ▸ hfit) fun i hi => answers_next ⟨rfl, by simp [hi, hb]⟩
  case decRead =>
    refine ⟨_, engineStep_decRead hf, fun x s' hb => ?_⟩
    exact answers_fitWord (hb ▸ hfit) fun i hi => answers_next ⟨rfl, hb ▸ hi⟩

/-- A step that writes leaves `i` as it is (20_memory.md R53). -/
theorem engineStep_of_write_request (h : s.blk.inv) {a : Nat} (hr : s.blk.request = some (.write, a)) :
    ∃ x k, engineStep s = memWrite a x s k ∧
      ∀ s' : State, s'.blk = s.blk → s'.GoesOn s.blk.i.toNat (k s') := by
  obtain ⟨cmd, hcmd, -⟩ := h.write_request hr
  have hfit : s.blk.cur.toNat + 1 < 2 ^ 32 := h.cur_succ_lt hcmd
  have hcount {s' : State} (hb : s'.blk = s.blk) {b' : Word → Block} (hi : ∀ x, (b' x).i = s'.blk.i) :
      s'.GoesOn s.blk.i.toNat (fitWord (s'.blk.cur.toNat + 1) fun x => .next (s'.withBlk (b' x))) :=
    answers_fitWord (hb ▸ hfit) fun x _ => answers_next ⟨rfl, by rw [State.withBlk_blk, hi, hb]⟩
  obtain ⟨-, -, ⟨-, hbyte, -⟩, -, -, -, hwrite⟩ := h
  cases hf : s.blk.fsm <;> simp [Block.request, hf] at hr <;> subst hr
  case encLit =>
    refine ⟨_, _, engineStep_encLit hf, fun s' hb => ?_⟩
    obtain ⟨-, -, -, -, -, h254, -⟩ := hbyte (.inl hf)
    have hfit8 : s.blk.code.toNat + 1 < 2 ^ 8 := by omega
    refine answers_fitWord (hb ▸ hfit) fun cur _ => answers_fitByte (hb ▸ hfit8) fun code => answers_next ⟨rfl, ?_⟩
    rw [← hb, State.withBlk_blk]
    split <;> rfl
  case encFinZero => exact ⟨_, _, engineStep_encFinZero hf, fun s' hb => hcount hb fun _ => rfl⟩
  case encFinFull =>
    refine ⟨_, _, engineStep_encFinFull hf, fun s' hb => ?_⟩
    by_cases hlt : s'.blk.i < s'.blk.L
    · simp only [if_pos hlt]
      exact hcount hb fun _ => rfl
    · simp only [if_neg hlt]
      exact answers_next ⟨rfl, hb ▸ rfl⟩
  case encFinal => exact ⟨_, _, engineStep_encFinal hf, fun s' hb => answers_next ⟨rfl, hb ▸ rfl⟩⟩
  case encDelim => exact ⟨_, _, engineStep_encDelim hf, fun s' hb => hcount hb fun _ => rfl⟩
  case decZero => exact ⟨_, _, engineStep_decZero hf, fun s' hb => hcount hb fun _ => rfl⟩
  case decWrite =>
    refine ⟨_, _, engineStep_decWrite hf, fun s' hb => ?_⟩
    obtain ⟨-, h1, -⟩ := hwrite hf
    have hne : s'.blk.block ≠ 0 := fun e => by rw [← hb, e] at h1; exact absurd h1 (by decide)
    simp only [if_neg hne]
    exact hcount hb fun _ => rfl

/-- Without a request the step makes no memory access and leaves `i` as it is. -/
theorem engineStep_of_no_request (hr : s.blk.request = none) : s.GoesOn s.blk.i.toNat (engineStep s) := by
  obtain hf | hf := Block.request_eq_none_iff.mp hr
  · rw [engineStep_idle hf]; exact answers_next ⟨rfl, rfl⟩
  · rw [engineStep_complete hf]; exact answers_next ⟨rfl, rfl⟩

/-- A request that is not admitted is no step (20_memory.md R52). -/
theorem engineStep_of_not_admitted (h : s.blk.inv) {kind : AccessKind} {a : Nat}
    (hr : s.blk.request = some (kind, a)) (hd : memAdmit s.blk.port.denied kind a = false) :
    engineStep s = .next s := by
  cases kind with
  | read =>
    obtain ⟨k, hstep, -⟩ := engineStep_of_read_request h hr
    rw [hstep, memRead_of_not_admitted (h.request_lt hr) hd]
  | write =>
    obtain ⟨x, k, hstep, -⟩ := engineStep_of_write_request h hr
    rw [hstep, memWrite_of_not_admitted (h.request_lt hr) hd]

theorem engineStep_of_admitted_read (h : s.blk.inv) {a : Nat} (hr : s.blk.request = some (.read, a))
    (hd : memAdmit s.blk.port.denied .read a = true) : s.GoesOn (s.blk.i.toNat + 1) (engineStep s) := by
  obtain ⟨k, hstep, hk⟩ := engineStep_of_read_request h hr
  rw [hstep, memRead_of_admitted (h.request_lt hr) hd]
  exact hk _ (s.noteEngine .read a) rfl

theorem engineStep_of_admitted_write (h : s.blk.inv) {a : Nat} (hr : s.blk.request = some (.write, a))
    (hd : memAdmit s.blk.port.denied .write a = true) :
    ∃ x, (s.withMem (s.mem.writeByte a x)).GoesOn s.blk.i.toNat (engineStep s) := by
  obtain ⟨x, k, hstep, hk⟩ := engineStep_of_write_request h hr
  rw [hstep, memWrite_of_admitted (h.request_lt hr) hd]
  exact ⟨x, hk ((s.withMem (s.mem.writeByte a x)).noteEngine .write a) rfl⟩

/-- Everything an Engine step can do to memory and to `i` (20_memory.md R52 to R54). -/
theorem engineStep_cases (h : s.blk.inv) :
    (s.blk.request = none ∧ s.GoesOn s.blk.i.toNat (engineStep s)) ∨
    (∃ kind a, s.blk.request = some (kind, a) ∧ memAdmit s.blk.port.denied kind a = false ∧
      engineStep s = .next s) ∨
    (∃ a, s.blk.request = some (.read, a) ∧ memAdmit s.blk.port.denied .read a = true ∧
      s.GoesOn (s.blk.i.toNat + 1) (engineStep s)) ∨
    (∃ a x, s.blk.request = some (.write, a) ∧ memAdmit s.blk.port.denied .write a = true ∧
      (s.withMem (s.mem.writeByte a x)).GoesOn s.blk.i.toNat (engineStep s)) := by
  cases hr : s.blk.request with
  | none => exact .inl ⟨rfl, engineStep_of_no_request hr⟩
  | some q =>
    obtain ⟨kind, a⟩ := q
    cases hd : memAdmit s.blk.port.denied kind a with
    | false => exact .inr (.inl ⟨kind, a, rfl, hd, engineStep_of_not_admitted h hr hd⟩)
    | true =>
      cases kind with
      | read => exact .inr (.inr (.inl ⟨a, rfl, hd, engineStep_of_admitted_read h hr hd⟩))
      | write =>
        obtain ⟨x, hgo⟩ := engineStep_of_admitted_write h hr hd
        exact .inr (.inr (.inr ⟨a, x, rfl, hd, hgo⟩))

end Steps

/-- Settles O34: an idle Engine has no step rule and no request. -/
theorem idleEngineTakesNoStep : Obligations.IdleEngineTakesNoStep :=
  fun _ hf => ⟨engineStep_idle hf, Block.request_eq_none_iff.mpr (.inl hf)⟩

/-- Settles O30: an Engine that is not enabled is idle, or its request is not admitted; the request lies in memory, so
the step waits and does not stop. -/
theorem disabledEngineChangesNothing : Obligations.DisabledEngineChangesNothing := by
  intro s h hd
  cases hb : s.blk.busy with
  | false => exact engineStep_idle (Block.busy_eq_false_iff.mp hb)
  | true =>
    cases hr : s.blk.request with
    | none => simp [Block.enabled, hb, hr] at hd
    | some q => exact engineStep_of_not_admitted h.blk hr (by simpa [Block.enabled, hb, hr] using hd)

/-- Settles O31: the step waits, or makes its access and goes on. -/
theorem engineStepNeverStops : Obligations.EngineStepNeverStops := by
  intro s h
  obtain ⟨-, t, ht, -⟩ | ⟨-, -, -, -, ht⟩ | ⟨-, -, -, t, ht, -⟩ | ⟨-, -, -, -, t, ht, -⟩ := engineStep_cases h.blk
  · exact ⟨t, ht⟩
  · exact ⟨s, ht⟩
  · exact ⟨t, ht⟩
  · exact ⟨t, ht⟩

/-- Settles O32: the request of a read is the next source byte, and only a read that is made counts `i`. -/
theorem engineReadsEachSourceByteInOrder : Obligations.EngineReadsEachSourceByteInOrder := by
  intro s t h hstep
  constructor
  · intro a hr
    obtain ⟨ha, hi, -⟩ := h.blk.read_request hr
    exact ⟨ha, hi, fun hd => ((engineStep_of_admitted_read h.blk hr hd).next hstep).2⟩
  · intro hr
    obtain ⟨-, hgo⟩ | ⟨-, -, -, -, hstay⟩ | ⟨a, hread, -⟩ | ⟨a, x, -, -, hgo⟩ := engineStep_cases h.blk
    · exact BitVec.eq_of_toNat_eq (hgo.next hstep).2
    · cases hstay.symm.trans hstep; rfl
    · exact absurd hread (hr a)
    · exact BitVec.eq_of_toNat_eq (hgo.next hstep).2

/-- The bytes an Engine step can change: at most the one at its write request. -/
theorem engineStep_changes_only_write_request {s t : State} (h : s.inv) (hstep : engineStep s = .next t) {c : Nat}
    (hc : t.mem.readByte c ≠ s.mem.readByte c) : s.blk.request = some (.write, c) := by
  obtain ⟨-, hgo⟩ | ⟨-, -, -, -, hstay⟩ | ⟨-, -, -, hgo⟩ | ⟨a, x, hr, -, hgo⟩ := engineStep_cases h.blk
  · exact absurd (by rw [(hgo.next hstep).1]) hc
  · cases hstay.symm.trans hstep; exact absurd rfl hc
  · exact absurd (by rw [(hgo.next hstep).1]) hc
  · obtain ⟨-, -, hwf⟩ := h
    by_cases he : c = a
    · rw [he, hr]
    · rw [(hgo.next hstep).1, State.withMem_mem, Memory.readByte_writeByte hwf, if_neg he] at hc
      exact absurd rfl hc

/-- Settles O33: a byte that changes is at the write request, a cursor of the destination, which by the acceptance check
has no address in common with the source. -/
theorem engineWritesOnlyItsDestination : Obligations.EngineWritesOnlyItsDestination := by
  intro s t h hstep hb
  obtain ⟨u, r, hd⟩ := h.blk.exists_duty hb
  have hu := h.blk.newest_duty hb hd
  refine ⟨u, r, hd, congrArg Duty.s hu, congrArg Duty.l hu, congrArg Duty.d hu, fun c hc => ?_⟩
  have hr := engineStep_changes_only_write_request h hstep hc
  obtain ⟨cmd, hcmd, hlo, hhi⟩ := h.blk.write_request hr
  have hs := h.blk.serves hcmd
  obtain ⟨-, -, -, hapart⟩ := hs.operands
  obtain ⟨-, -, -, hhead, -⟩ := hs
  obtain rfl : u = { cmd := cmd, s := s.blk.S, l := s.blk.L, d := s.blk.D } := by simpa [hd] using hhead
  refine ⟨hlo, hhi, ?_, hr⟩
  by_contra hin
  have hmeets : (srcRegion s.blk.S s.blk.L).meets (dstRegion cmd s.blk.L s.blk.D) = true :=
    Region.meets_of_common (c := c) (by simpa [Duty.src] using hin) ⟨hlo, hhi⟩
  rw [hapart] at hmeets
  cases hmeets

/-! The Host's memory accesses (20_memory.md R47, R55). -/

theorem Memory.getElem_readBytes (m : Memory) (a : Nat) {n j : Nat} (hj : j < (m.readBytes a n).length) :
    (m.readBytes a n)[j] = m.readByte (a + j) := by
  induction n generalizing a j with
  | zero => exact absurd hj (Nat.not_lt_zero j)
  | succ n ih =>
    cases j with
    | zero => rfl
    | succ j => exact (ih (a + 1) _).trans (by rw [Nat.add_right_comm]; rfl)

/-- The bytes stored read back (20_memory.md R47). -/
theorem Memory.readBytes_writeBytes {m : Memory} {a : Nat} {xs : List Byte} (h : m.wf = true)
    (ha : a + xs.length ≤ Config.memSize) : (m.writeBytes a xs).readBytes a xs.length = xs := by
  refine List.ext_getElem (Memory.length_readBytes _ _ _) fun j _ hj => ?_
  rw [Memory.getElem_readBytes, Memory.readByte_writeBytes h ha hj]

theorem State.noteHost_hostProtocol (s : State) (kind : AccessKind) (r : Region) :
    (s.noteHost kind r).faults.hostProtocol = s.faults.hostProtocol := by
  rw [State.noteHost, State.recordIf_faults]
  split <;> rfl

theorem State.noteHost_hostRace (s : State) (kind : AccessKind) (r : Region) :
    (s.noteHost kind r).faults.hostRace = (s.faults.hostRace || breaksDuty (s.blk :: s.peers) kind r) := by
  rw [State.noteHost, State.recordIf_faults]
  cases breaksDuty (s.blk :: s.peers) kind r <;> simp [FaultFlags.set]

/-- The Host's next memory access, in a map of its own or outside every window of a shared one. -/
theorem hostTurn_of_mem_outside {x : Bus} {q : List HostAction} {s : State} (h : s.hostQueue = .mem x :: q)
    (hw : s.platform.sharedMap = true → s.windowOf (busRegion x) = none) : hostTurn s = memAccess x q s := by
  cases hp : s.platform.sharedMap with
  | false => exact hostTurn_of_mem h hp
  | true =>
    unfold hostTurn
    rw [h]
    simp [hp, hw hp]

section MemAccess
variable {s : State} {q : List HostAction}

theorem memAccess_of_admitted_rd {a n : Nat} (ha : a + n ≤ Config.memSize)
    (hd : memAdmitAll s.platform.hostDenied .read a n = true) :
    memAccess (.rd a n) q s =
      .next (((s.withQueue q).noteHost .read (a, a + n)).pushRead (.mem (s.mem.readBytes a n))) := by
  simp [memAccess, Bus.addr, Bus.width, hd, Nat.not_lt.mpr ha]

theorem memAccess_of_admitted_wr {a : Nat} {d : List Byte} (ha : a + d.length ≤ Config.memSize)
    (hd : memAdmitAll s.platform.hostDenied .write a d.length = true) :
    memAccess (.wr a d) q s =
      .next (((s.withQueue q).noteHost .write (a, a + d.length)).withMem (s.mem.writeBytes a d)) := by
  simp [memAccess, Bus.addr, Bus.width, hd, Nat.not_lt.mpr ha]

/-- Everything a Host memory access can do to the flags: it waits, or it is made and noted (20_memory.md R63). -/
theorem memAccess_faults (x : Bus) :
    Ensures (fun t => t = s ∨ t.faults = (s.noteHost (busKind x) (busRegion x)).faults) (memAccess x q s) := by
  refine ensures_ite (ensures_fault _) ?_
  cases x with
  | rd a n => exact ensures_ite (ensures_next.mpr (.inr rfl)) (ensures_next.mpr (.inl rfl))
  | wr a d => exact ensures_ite (ensures_next.mpr (.inr rfl)) (ensures_next.mpr (.inl rfl))

end MemAccess

/-- Settles O47: the access is one step on memory, which notes a broken duty and leaves the blocks alone. -/
theorem hostMemoryAccessesActOnTheirBytes : Obligations.HostMemoryAccessesActOnTheirBytes := by
  intro s ts q hwf hs
  have hturn (x : Bus) (hq : s.hostQueue = .mem x :: q)
      (hw : s.platform.sharedMap = true → s.windowOf (busRegion x) = none) :
      step s = memAccess x q (s.withSched ts) :=
    (step_of_listed hs).trans (hostTurn_of_mem_outside (s := s.withSched ts) hq hw)
  constructor
  · intro a d hq ha hw hd
    refine ⟨_, (hturn _ hq hw).trans (memAccess_of_admitted_wr ha hd), Memory.readBytes_writeBytes hwf ha,
      fun c hc => Memory.readByte_writeBytes_of_outside hwf ha hc, rfl, rfl, rfl, rfl, rfl, ?_, ?_⟩
    · exact State.noteHost_hostProtocol _ _ _
    · exact State.noteHost_hostRace _ _ _
  · intro a n hq ha hw hd
    refine ⟨_, (hturn _ hq hw).trans (memAccess_of_admitted_rd ha hd), rfl, rfl, rfl, rfl, rfl, rfl, ?_, ?_⟩
    · exact State.noteHost_hostProtocol _ _ _
    · exact State.noteHost_hostRace _ _ _

/-! A store to a register in a shared map (20_memory.md R48). -/

/-- An access that meets the window of the block in focus reaches that block: it is the first in the order of windows. -/
theorem State.windowOf_of_meets_focus {s : State} {r : Region} (h : r.meets (windowRegion s.blk.port) = true) :
    s.windowOf r = some 0 := by
  simp [State.windowOf, List.findIdx?_cons, h]

theorem windowOf_of_decode {x : Bus} {s : State} {i : Instr} (h : decode s.blk.port.base x = .ok i) :
    s.windowOf (busRegion x) = some 0 := by
  obtain ⟨hw, hlo, hhi⟩ := inside_of_decode h
  exact State.windowOf_of_meets_focus <|
    Region.meets_of_common (c := x.addr) ⟨le_refl _, by simp [busRegion, hw]⟩ ⟨hlo, by simp only [windowRegion]; omega⟩

/-- An access that decodes at the block in focus is its instruction (30_encoding.md R72): it lies inside that window. -/
theorem regAccess_of_decode {x : Bus} {s : State} {i : Instr} (h : decode s.blk.port.base x = .ok i) :
    regAccess x s = exec i s := by
  obtain ⟨-, hlo, hhi⟩ := inside_of_decode h
  rw [regAccess_of_window (windowOf_of_decode h), atBlock_zero,
    State.noteBeside_of_inside List.mem_cons_self hlo hhi, windowStep_of_ok h]

theorem decode_wrSrcLen (base : Nat) (x : Word) : decode base (.wr (base + 0x0C) (leBytes x)) = .ok (.wrSrcLen x) := by
  have hkey : keyOf base (.wr (base + 0x0C) (leBytes x)) = .ok 0x2C#6 :=
    keyOf_of_aligned (off := 0x0C) (length_leBytes x) rfl (by decide) rfl
  rw [decode, hkey]
  exact congrArg (fun w => Except.ok (Instr.wrSrcLen w)) (data_wr_leBytes (base + 0x0C) x)

/-- Settles O50: the four bytes are the lanes of the word, at the register's own address. -/
theorem sharedMapStoreIsTheLittleEndianRegisterWrite : Obligations.SharedMapStoreIsTheLittleEndianRegisterWrite := by
  intro s ts q x hp hs hq
  have hdec : decode s.blk.port.base (.wr (s.blk.port.base + 0x0C) (leBytes x)) = .ok (.wrSrcLen x) :=
    decode_wrSrcLen s.blk.port.base x
  calc step s = hostTurn (s.withSched ts) := step_of_listed hs
    _ = regAccess (.wr (s.blk.port.base + 0x0C) (leBytes x)) ((s.withSched ts).withQueue q) :=
      hostTurn_of_mem_at_window hq hp (windowOf_of_decode (s := s.withSched ts) hdec)
    _ = exec (.wrSrcLen x) ((s.withSched ts).withQueue q) := regAccess_of_decode hdec
    _ = _ := rfl

/-! Accesses that break an open duty (20_memory.md R63, clauses 1 and 2). -/

/-- The flags set in `s` are set in `t` (60_exceptions.md R147). -/
def State.KeepsFaults (s t : State) : Prop :=
  (s.faults.hostProtocol = true → t.faults.hostProtocol = true) ∧ (s.faults.hostRace = true → t.faults.hostRace = true)

theorem State.keepsFaults_of_eq {s t : State} (h : t.faults = s.faults) : s.KeepsFaults t := by
  rw [State.KeepsFaults, h]; exact ⟨id, id⟩

theorem State.keepsFaults_record (s : State) (k : ModelFault) : s.KeepsFaults (s.record k) := FaultFlags.set_mono _ k

theorem State.keepsFaults_recordIf (s : State) (c : Bool) (k : ModelFault) : s.KeepsFaults (s.recordIf c k) := by
  cases c with
  | false => exact State.keepsFaults_of_eq rfl
  | true => exact s.keepsFaults_record k

@[simp] theorem State.unswap_faults (s : State) (j : Nat) : (s.unswap j).faults = s.faults := by
  unfold State.unswap
  split <;> rfl

theorem writeCommand_keepsFaults (w : Word) (s : State) : Ensures s.KeepsFaults (writeCommand w s) := by
  obtain ⟨-, h⟩ | ⟨-, -, h⟩ | ⟨-, -, h⟩ := writeCommand_cases w s
  · rw [h]; exact ensures_next.mpr (s.keepsFaults_record _)
  · rw [h]; exact ensures_next.mpr (State.keepsFaults_recordIf (s.withBlk _) _ _)
  · rw [h]; exact ensures_next.mpr (State.keepsFaults_of_eq rfl)

theorem exec_keepsFaults (i : Instr) (s : State) : Ensures s.KeepsFaults (exec i s) := by
  cases i with
  | encode => exact writeCommand_keepsFaults _ s
  | decode => exact writeCommand_keepsFaults _ s
  | wrCmd w => exact writeCommand_keepsFaults w s
  | rdStatus =>
    refine ensures_next.mpr (State.keepsFaults_of_eq ?_)
    rw [State.pushRead_faults]
    split <;> rfl
  | rdResultLen =>
    exact ensures_ite (ensures_next.mpr (State.keepsFaults_of_eq rfl)) (ensures_next.mpr (State.keepsFaults_of_eq rfl))
  | wrSrcAddr x | wrSrcLen x | wrDstAddr x => exact ensures_next.mpr (State.keepsFaults_of_eq rfl)
  | rdSrcAddr | rdSrcLen | rdDstAddr => exact ensures_next.mpr (State.keepsFaults_of_eq rfl)

theorem windowStep_keepsFaults (x : Bus) (s : State) : Ensures s.KeepsFaults (windowStep x s) := by
  cases h : decode s.blk.port.base x with
  | ok i => rw [windowStep_of_ok h]; exact exec_keepsFaults i s
  | error e => rw [windowStep_of_error h]; exact ensures_next.mpr (s.keepsFaults_record _)

/-- An action that clears no flag in focus clears none at any block. -/
theorem atBlock_keepsFaults {f : State → Result} {absent : Result} {s : State} (k : Nat)
    (hf : ∀ s, Ensures s.KeepsFaults (f s)) (ha : Ensures s.KeepsFaults absent) :
    Ensures s.KeepsFaults (atBlock k f absent s) := by
  cases k with
  | zero => exact hf s
  | succ j =>
    cases hb : s.peers[j]? with
    | none => rw [atBlock_of_absent f absent hb]; exact ha
    | some b =>
      rw [atBlock_of_present f absent hb]
      refine ensures_andThen (hf (s.swap j b)) fun t ht => ensures_next.mpr ?_
      rw [State.KeepsFaults, State.unswap_faults]
      exact ht

/-- A register access keeps the flags, with those of the cells beside the window (70_reset_and_hazards.md R162). -/
theorem regAccess_keepsFaults (x : Bus) (s : State) : Ensures (s.noteBeside x).KeepsFaults (regAccess x s) := by
  cases h : s.windowOf (busRegion x) with
  | none => simp [regAccess, h]
  | some k =>
    rw [regAccess_of_window h]
    exact atBlock_keepsFaults k (windowStep_keepsFaults x) (ensures_fault _)

/-- An access of `kind` may not touch the byte `c` while the duty is open. -/
def Duty.guards (u : Duty) (kind : AccessKind) (c : Nat) : Prop :=
  (u.dst.1 ≤ c ∧ c < u.dst.2) ∨ (kind = .write ∧ u.src.1 ≤ c ∧ c < u.src.2)

theorem Duty.forbids_of_guards {u : Duty} {kind : AccessKind} {r : Region} {c : Nat} (h : u.guards kind c)
    (hc : r.1 ≤ c ∧ c < r.2) : u.forbids kind r = true := by
  obtain hdst | ⟨rfl, hsrc⟩ := h
  · simp [Duty.forbids, Region.meets_of_common hc hdst]
  · simp [Duty.forbids, Region.meets_of_common hc hsrc]

theorem breaksDuty_of_guards {bs : List Block} {b : Block} {u : Duty} {kind : AccessKind} {r : Region} {c : Nat}
    (hb : b ∈ bs) (hu : u ∈ b.duties) (h : u.guards kind c) (hc : r.1 ≤ c ∧ c < r.2) : breaksDuty bs kind r = true :=
  List.any_eq_true.mpr ⟨b, hb, List.any_eq_true.mpr ⟨u, hu, Duty.forbids_of_guards h hc⟩⟩

section Guarded
variable {s t : State} {q : List HostAction} {x : Bus} {b : Block} {u : Duty} {c : Nat}

/-- A memory access that is made, so that the Host's program goes on, records that it breaks a duty. -/
theorem memAccess_records_race (hb : b ∈ s.blk :: s.peers) (hu : u ∈ b.duties) (hg : u.guards (busKind x) c)
    (hc : x.addr ≤ c ∧ c < x.addr + x.width) (hq : s.hostQueue = .mem x :: q) (ht : memAccess x q s = .next t)
    (htq : t.hostQueue = q) : t.faults.hostRace = true := by
  obtain rfl | hf := memAccess_faults x t ht
  · exact absurd (hq.symm.trans htq) (List.cons_ne_self _ _)
  · rw [hf, State.noteHost_hostRace, breaksDuty_of_guards hb hu hg hc, Bool.or_true]

/-- In a shared map a register access records a duty it breaks at a cell beside the windows. -/
theorem regAccess_records_race (hb : b ∈ s.blk :: s.peers) (hu : u ∈ b.duties) (hg : u.guards (busKind x) c)
    (hc : x.addr ≤ c ∧ c < x.addr + x.width) (hp : s.platform.sharedMap = true) (hw : s.windowOf (c, c + 1) = none)
    (ht : regAccess x s = .next t) : t.faults.hostRace = true := by
  have hbreaks : breaksDuty (s.blk :: s.peers) (busKind x) (c, c + 1) = true :=
    breaksDuty_of_guards hb hu hg ⟨le_refl c, Nat.lt_succ_self c⟩
  have htouch : s.touchesBeside x = true := State.touchesBeside_iff.mpr ⟨c, hc.1, hc.2, hw, hbreaks⟩
  refine (regAccess_keepsFaults x s t ht).2 ?_
  simp [State.noteBeside_faults, hp, htouch, FaultFlags.set]

theorem hostTurn_records_race (hb : b ∈ s.blk :: s.peers) (hu : u ∈ b.duties) (hg : u.guards (busKind x) c)
    (hc : x.addr ≤ c ∧ c < x.addr + x.width)
    (hq : s.hostQueue = .mem x :: q ∨ (s.platform.sharedMap = true ∧ s.hostQueue = .reg x :: q))
    (hw : s.platform.sharedMap = true → s.windowOf (c, c + 1) = none) (ht : hostTurn s = .next t)
    (htq : t.hostQueue = q) : t.faults.hostRace = true := by
  have hreg (hp : s.platform.sharedMap = true) (h : hostTurn s = regAccess x (s.withQueue q)) :
      t.faults.hostRace = true :=
    regAccess_records_race (s := s.withQueue q) hb hu hg hc hp (hw hp) (h.symm.trans ht)
  have hmem (hq : s.hostQueue = .mem x :: q) (h : s.platform.sharedMap = true → s.windowOf (busRegion x) = none) :
      t.faults.hostRace = true :=
    memAccess_records_race hb hu hg hc hq ((hostTurn_of_mem_outside hq h).symm.trans ht) htq
  obtain hq | ⟨hp, hq⟩ := hq
  · cases hk : s.windowOf (busRegion x) with
    | none => exact hmem hq fun _ => hk
    | some k =>
      cases hp : s.platform.sharedMap with
      | false => exact hmem hq fun e => by simp [hp] at e
      | true => exact hreg hp (hostTurn_of_mem_at_window hq hp hk)
  · exact hreg hp (hostTurn_of_reg hq)

theorem step_records_race {ts : List Turn} (hb : b ∈ s.blk :: s.peers) (hu : u ∈ b.duties)
    (hg : u.guards (busKind x) c) (hc : x.addr ≤ c ∧ c < x.addr + x.width) (hs : s.sched = .host :: ts)
    (hq : s.hostQueue = .mem x :: q ∨ (s.platform.sharedMap = true ∧ s.hostQueue = .reg x :: q))
    (hw : s.platform.sharedMap = true → s.windowOf (c, c + 1) = none) (ht : step s = .next t)
    (htq : t.hostQueue = q) : t.faults.hostRace = true :=
  hostTurn_records_race (s := s.withSched ts) hb hu hg hc hq hw ((step_of_listed hs).symm.trans ht) htq

end Guarded

theorem busKind_of_isWrite {x : Bus} (h : x.isWrite = true) : busKind x = .write := if_pos h

/-- Settles O48: an access that is made notes a broken duty, as a memory access or at the cells beside a window, and the
rest of a register access clears no flag. The latched operands of a busy block are those of its newest duty. -/
theorem hostTouchingBusyBuffersRecordsHostRace : Obligations.HostTouchingBusyBuffersRecordsHostRace := by
  constructor
  · intro s t ts q x b u c hb hu hs hq hw ht htq hlo hhi hin
    have hg : u.guards (busKind x) c := hin.imp_right fun ⟨hwr, hsrc⟩ => ⟨busKind_of_isWrite hwr, hsrc⟩
    exact step_records_race hb hu hg ⟨hlo, hhi⟩ hs hq hw ht htq
  · intro s t ts q x u r c h hbusy hd hs hq hw ht htq hlo hhi hin
    have hg : Duty.guards { cmd := u.cmd, s := s.blk.S, l := s.blk.L, d := s.blk.D } (busKind x) c :=
      hin.imp_right fun ⟨hwr, hsrc⟩ => ⟨busKind_of_isWrite hwr, hsrc⟩
    rw [← h.blk.newest_duty hbusy hd] at hg
    exact step_records_race List.mem_cons_self (hd ▸ List.mem_cons_self) hg ⟨hlo, hhi⟩ hs hq hw ht htq

/-! An accept whose buffers clash with a busy peer's (20_memory.md R63, clause 4). -/

/-- An accepted command starts its operation (40_command.md R82). -/
theorem Block.busy_init {cmd : Command} (hcmd : cmd ≠ .illegal) (b : Block) : (b.init cmd).busy = true := by
  rw [Block.busy_iff]
  cases cmd with
  | encode => rw [Block.init, Block.encInit_fsm]; split <;> decide
  | decode => rw [Block.init, Block.decInit_fsm]; split <;> decide
  | illegal => exact absurd rfl hcmd

theorem Duty.clashes_of_common {u w : Duty} {c : Nat}
    (h : (u.dst.1 ≤ c ∧ c < u.dst.2 ∧ ((w.src.1 ≤ c ∧ c < w.src.2) ∨ (w.dst.1 ≤ c ∧ c < w.dst.2))) ∨
      (u.src.1 ≤ c ∧ c < u.src.2 ∧ w.dst.1 ≤ c ∧ c < w.dst.2)) : u.clashes w = true := by
  obtain ⟨hlo, hhi, hsrc | hdst⟩ | ⟨hlo, hhi, hdst⟩ := h
  · simp [Duty.clashes, Region.meets_of_common ⟨hlo, hhi⟩ hsrc]
  · simp [Duty.clashes, Region.meets_of_common ⟨hlo, hhi⟩ hdst]
  · simp [Duty.clashes, Region.meets_of_common hdst ⟨hlo, hhi⟩]

theorem State.acceptRace_of_peer {s : State} {p : Block} {u w : Duty} {r : List Duty} (hp : p ∈ s.peers)
    (hb : p.busy = true) (hd : p.duties = w :: r) (h : u.clashes w = true) : s.acceptRace u = true := by
  have hclash : p.clashesWith u = true := by simp [Block.clashesWith, hb, hd, h]
  simp only [State.acceptRace, Bool.or_eq_true]
  exact .inr (List.any_eq_true.mpr ⟨p, hp, hclash⟩)

/-- Settles O49: the check lets the command through, and its accept notes the clash with the peer's newest duty. -/
theorem acceptClashingWithBusyPeerRecordsHostRace : Obligations.AcceptClashingWithBusyPeerRecordsHostRace := by
  intro s p u r cmd c hf hcmd hcheck hp hb hd hin
  have hidle : s.blk.busy = false := Block.busy_eq_false_iff.mpr hf
  have hrace : s.acceptRace (s.blk.newDuty cmd) = true :=
    State.acceptRace_of_peer hp hb hd (Duty.clashes_of_common hin)
  have hexec : exec (if cmd = .encode then .encode else .decode) s = accept cmd s := by
    obtain rfl | rfl := hcmd
    · exact writeCommand_of_accept (w := 1) hidle hcheck
    · exact writeCommand_of_accept (w := 2) hidle hcheck
  have hlegal : cmd ≠ .illegal := by obtain rfl | rfl := hcmd <;> decide
  refine ⟨_, hexec, ?_, Block.busy_init hlegal s.blk.latch.acceptFlags⟩
  simp [State.recordIf_faults, hrace, FaultFlags.set]

end Sys2Proof.Machine

/-! PROOFS of 30_encoding.md. Transactions and instructions (R70, R72), the words of the opcode table (R66, R72), and
the Host's `POLL` (R70). -/

namespace Sys2Proof

/-! The two forms of an access that decodes: a read of a word, and a write of the four lanes of a word. -/

/-- A byte above the lowest lane is one of the word without that lane. -/
theorem extractLsb'_append_byte {n : Nat} (x : BitVec n) (b : Byte) (k : Nat) :
    (x ++ b).extractLsb' (8 + k) 8 = x.extractLsb' k 8 := by
  rw [BitVec.extractLsb'_append_eq_of_le (Nat.le_add_right 8 k), Nat.add_sub_cancel_left]

/-- Joining four byte lanes and splitting the word gives the lanes back (20_memory.md R48). -/
theorem leBytes_leWord (b0 b1 b2 b3 : Byte) : leBytes (leWord b0 b1 b2 b3) = [b0, b1, b2, b3] := by
  have h0 : (leWord b0 b1 b2 b3).extractLsb' 0 8 = b0 := BitVec.extractLsb'_append_eq_right
  have h1 : (leWord b0 b1 b2 b3).extractLsb' 8 8 = b1 :=
    (extractLsb'_append_byte (b3 ++ b2 ++ b1) b0 0).trans BitVec.extractLsb'_append_eq_right
  have h2 : (leWord b0 b1 b2 b3).extractLsb' 16 8 = b2 :=
    (extractLsb'_append_byte (b3 ++ b2 ++ b1) b0 8).trans <|
      (extractLsb'_append_byte (b3 ++ b2) b1 0).trans BitVec.extractLsb'_append_eq_right
  have h3 : (leWord b0 b1 b2 b3).extractLsb' 24 8 = b3 :=
    (extractLsb'_append_byte (b3 ++ b2 ++ b1) b0 16).trans <|
      (extractLsb'_append_byte (b3 ++ b2) b1 8).trans <|
        (extractLsb'_append_byte b3 b2 0).trans BitVec.extractLsb'_eq_self
  rw [leBytes, h0, h1, h2, h3]

/-- A read of a word at an aligned offset decodes by the key with direction bit 0 (30_encoding.md R72). -/
theorem decode_rd (base off : Nat) (ho : off < Config.windowBytes := by decide) (h4 : off % 4 = 0 := by decide) :
    decode base (.rd (base + off) 4) = decodeKey (BitVec.ofNat 6 off) 0 := by
  have hkey : keyOf base (.rd (base + off) 4) = .ok (BitVec.ofNat 6 (0 + off)) := keyOf_of_aligned rfl rfl ho h4
  rw [decode, hkey, Nat.zero_add, data_rd]

/-- A write of a word at an aligned offset decodes by the key with direction bit 1, and by the word. -/
theorem decode_wr (base off : Nat) (w : Word) (ho : off < Config.windowBytes := by decide)
    (h4 : off % 4 = 0 := by decide) :
    decode base (.wr (base + off) (leBytes w)) = decodeKey (BitVec.ofNat 6 (32 + off)) w := by
  have hkey : keyOf base (.wr (base + off) (leBytes w)) = .ok (BitVec.ofNat 6 (32 + off)) :=
    keyOf_of_aligned (length_leBytes w) rfl ho h4
  rw [decode, hkey, data_wr_leBytes]

/-- A word-wide access is a read, or a write of the lanes of some word. -/
theorem Bus.eq_rd_or_wr_of_width {x : Bus} (h : x.width = 4) :
    x = .rd x.addr 4 ∨ ∃ w, x = .wr x.addr (leBytes w) := by
  cases x with
  | rd a n => exact .inl (congrArg (Bus.rd a) h)
  | wr a d =>
    obtain ⟨b0, b1, b2, b3, rfl⟩ := List.length_eq_four.mp h
    exact .inr ⟨leWord b0 b1 b2 b3, congrArg (Bus.wr a) (leBytes_leWord b0 b1 b2 b3).symm⟩

/-- An access that decodes is aligned (20_memory.md R49). -/
theorem aligned_of_decode {base : Nat} {x : Bus} {i : Instr} (h : decode base x = .ok i) :
    (x.addr - base) % 4 = 0 := by
  by_contra h4
  obtain ⟨hw, hlo, hhi⟩ := inside_of_decode h
  have hin : ¬ (x.addr < base ∨ base + Config.windowBytes ≤ x.addr) := by omega
  have hkey : keyOf base x = .error .misaligned := by rw [keyOf, if_neg (not_not.mpr hw), if_neg hin, if_pos h4]
  rw [decode, hkey] at h
  cases h

/-- An access that decodes has one of the two forms, at an aligned offset of the window. -/
theorem form_of_decode {base : Nat} {x : Bus} {i : Instr} (h : decode base x = .ok i) :
    ∃ off, off < Config.windowBytes ∧ off % 4 = 0 ∧
      (x = .rd (base + off) 4 ∨ ∃ w, x = .wr (base + off) (leBytes w)) := by
  obtain ⟨hw, hlo, hhi⟩ := inside_of_decode h
  have haddr : base + (x.addr - base) = x.addr := Nat.add_sub_cancel' hlo
  exact ⟨x.addr - base, by omega, aligned_of_decode h, haddr.symm ▸ Bus.eq_rd_or_wr_of_width hw⟩

/-- The aligned offsets of the window (10_state.md R21). -/
theorem offset_cases {off : Nat} (ho : off < Config.windowBytes) (h4 : off % 4 = 0) :
    off = 0x00 ∨ off = 0x04 ∨ off = 0x08 ∨ off = 0x0C ∨ off = 0x10 ∨ off = 0x14 ∨ off = 0x18 ∨ off = 0x1C := by
  simp only [Config.windowBytes] at ho
  omega

/-! A WR CMD transaction is decoded further by its data word (30_encoding.md R69, R72). -/

theorem instrOfCmdWord_of_wellFormed {w : Word} (h : (Instr.wrCmd w).wellFormed = true) :
    instrOfCmdWord w = .wrCmd w := by
  have hne : w ≠ 1 ∧ w ≠ 2 := by simpa [Instr.wellFormed] using h
  rw [instrOfCmdWord, (decodeCmd_eq_illegal_iff w).mpr hne]

/-- Every command word is that of one well-formed instruction. -/
theorem instrOfCmdWord_spec (base : Nat) (w : Word) :
    (instrOfCmdWord w).wellFormed = true ∧ encode base (instrOfCmdWord w) = .wr (base + 0x00) (leBytes w) := by
  unfold instrOfCmdWord
  cases h : decodeCmd w with
  | encode => exact ⟨rfl, by rw [(decodeCmd_eq_encode_iff w).mp h, encode]⟩
  | decode => exact ⟨rfl, by rw [(decodeCmd_eq_decode_iff w).mp h, encode]⟩
  | illegal => exact ⟨by simpa [Instr.wellFormed] using (decodeCmd_eq_illegal_iff w).mp h, rfl⟩

/-- Settles O2: each instruction's transaction has the key of its row in the table of R72, and the lanes of its word. -/
theorem decodeOfEncodeIsTheInstruction : Obligations.DecodeOfEncodeIsTheInstruction := by
  intro base i hwf
  cases i with
  | encode => exact decode_wr base 0x00 1
  | decode => exact decode_wr base 0x00 2
  | wrCmd w => exact (decode_wr base 0x00 w).trans (congrArg Except.ok (instrOfCmdWord_of_wellFormed hwf))
  | rdStatus => exact decode_rd base 0x04
  | wrSrcAddr x => exact decode_wr base 0x08 x
  | rdSrcAddr => exact decode_rd base 0x08
  | wrSrcLen x => exact decode_wr base 0x0C x
  | rdSrcLen => exact decode_rd base 0x0C
  | wrDstAddr x => exact decode_wr base 0x10 x
  | rdDstAddr => exact decode_rd base 0x10
  | rdResultLen => exact decode_rd base 0x14

section Rows
variable {base off : Nat} {i : Instr}

/-- The keys of reads (30_encoding.md R72): five rows, and CMD and the reserved offsets have none. -/
theorem encode_of_decode_rd (ho : off < Config.windowBytes) (h4 : off % 4 = 0)
    (h : decode base (.rd (base + off) 4) = .ok i) : i.wellFormed = true ∧ encode base i = .rd (base + off) 4 := by
  rw [decode_rd base off ho h4] at h
  obtain rfl | rfl | rfl | rfl | rfl | rfl | rfl | rfl := offset_cases ho h4
  · cases h
  · cases h; exact ⟨rfl, rfl⟩
  · cases h; exact ⟨rfl, rfl⟩
  · cases h; exact ⟨rfl, rfl⟩
  · cases h; exact ⟨rfl, rfl⟩
  · cases h; exact ⟨rfl, rfl⟩
  · cases h
  · cases h

/-- The keys of writes: CMD's row is read by its word, three more rows, and STATUS, RESULT_LEN and the reserved offsets
have none. -/
theorem encode_of_decode_wr {w : Word} (ho : off < Config.windowBytes) (h4 : off % 4 = 0)
    (h : decode base (.wr (base + off) (leBytes w)) = .ok i) :
    i.wellFormed = true ∧ encode base i = .wr (base + off) (leBytes w) := by
  rw [decode_wr base off w ho h4] at h
  obtain rfl | rfl | rfl | rfl | rfl | rfl | rfl | rfl := offset_cases ho h4
  · cases h; exact instrOfCmdWord_spec base w
  · cases h
  · cases h; exact ⟨rfl, rfl⟩
  · cases h; exact ⟨rfl, rfl⟩
  · cases h; exact ⟨rfl, rfl⟩
  · cases h
  · cases h
  · cases h

end Rows

/-- Settles O3: an access that decodes is a read or a write of a word at an aligned offset, and each key has at most one
row. -/
theorem encodeOfDecodedAccessIsTheAccess : Obligations.EncodeOfDecodedAccessIsTheAccess := by
  intro base x i h
  obtain ⟨off, ho, h4, rfl | ⟨w, rfl⟩⟩ := form_of_decode h
  · exact encode_of_decode_rd ho h4 h
  · exact encode_of_decode_wr ho h4 h

/-! The words of the opcode table (30_encoding.md R66, R72, log 17). -/

/-- Settles O1, by decoding the listed words and keys. -/
theorem tableRowsDecodeToTheirInstructions : Obligations.TableRowsDecodeToTheirInstructions := by
  unfold Obligations.TableRowsDecodeToTheirInstructions
  decide

/-- The access `n` addresses further up. -/
def Bus.up (n : Nat) : Bus → Bus
  | .rd a k => .rd (n + a) k
  | .wr a d => .wr (n + a) d

theorem encode_eq_up (base : Nat) (i : Instr) : encode base i = (encode 0 i).up base := by
  cases i <;> simp [encode, Bus.up]

/-- A table word stands for the same access at every window. -/
theorem accessOfTableWord_eq_up (base nbits w : Nat) :
    accessOfTableWord base nbits w = (accessOfTableWord 0 nbits w).map (Bus.up base) := by
  unfold accessOfTableWord
  split
  · split <;> rfl
  · split
    · split
      · simp [Bus.up]
      · split <;> simp [Bus.up]
    · rfl

/-- A table word that decodes stands for the transaction of its instruction, at every window. -/
theorem accessOfTableWord_of_decode {nbits w : Nat} {i : Instr} (h : decodeTableWord nbits w = some i) (base : Nat) :
    i.wellFormed = true ∧ accessOfTableWord base nbits w = some (encode base i) := by
  unfold decodeTableWord at h
  cases hx : accessOfTableWord 0 nbits w with
  | none => simp [hx] at h
  | some x =>
    cases hd : decode 0 x with
    | error e => simp [hx, hd] at h
    | ok j =>
      obtain rfl : j = i := by simpa [hx, hd] using h
      obtain ⟨hwf, henc⟩ := encodeOfDecodedAccessIsTheAccess 0 x j hd
      refine ⟨hwf, ?_⟩
      rw [accessOfTableWord_eq_up, hx, encode_eq_up, henc, Option.map_some]

end Sys2Proof

namespace Sys2Proof.Machine

/-- Settles O6: the placed word is the transaction of its instruction at the window in focus, so it decodes back to that
instruction. -/
theorem placedTableWordIsRunNext : Obligations.PlacedTableWordIsRunNext := by
  intro s nbits w i h
  obtain ⟨hwf, hacc⟩ := accessOfTableWord_of_decode h s.blk.port.base
  have hdec : decode s.blk.port.base (encode s.blk.port.base i) = .ok i := decodeOfEncodeIsTheInstruction _ i hwf
  have hplaced : s.withFetchWord nbits w =
      { s with hostQueue := .reg (encode s.blk.port.base i) :: s.hostQueue, sched := .host :: s.sched } := by
    rw [State.withFetchWord, hacc]
  rw [hplaced]
  calc step _ = hostTurn { s with hostQueue := .reg (encode s.blk.port.base i) :: s.hostQueue } :=
      step_of_listed (t := .host) (ts := s.sched) rfl
    _ = regAccess (encode s.blk.port.base i) s := hostTurn_of_reg rfl
    _ = exec i s := regAccess_of_decode hdec

/-! The Host's `POLL` (30_encoding.md R70). -/

/-- Bit 0 of the STATUS word is BUSY (10_state.md R23). -/
theorem Block.getLsbD_zero_statusWord (b : Block) : b.statusWord.getLsbD 0 = b.busy := by
  simp [Block.statusWord]

theorem State.readBusy_pushRead_statusWord (s : State) (b : Block) :
    (s.pushRead (.reg b.statusWord)).readBusy = b.busy :=
  b.getLsbD_zero_statusWord

section Poll
variable {s : State} {q : List HostAction}

/-- A `POLL` that reads BUSY = 1 only adds the word it has read: it stays in the program. -/
theorem hostTurn_of_poll_busy (h : s.hostQueue = .poll 0 :: q) (hb : s.blk.busy = true) :
    hostTurn s = .next (s.pushRead (.reg s.blk.statusWord)) := by
  have hread : exec .rdStatus (s.withQueue q) = .next ((s.withQueue q).pushRead (.reg s.blk.statusWord)) := by
    simp [exec, execRdStatus, returnWord, hb]
  simp only [hostTurn, h, atBlock_zero, hread, andThen, State.readBusy_pushRead_statusWord, hb, if_true]
  rw [← h]
  rfl

/-- A `POLL` that reads BUSY = 0 is a read of STATUS. -/
theorem hostTurn_of_poll_idle (h : s.hostQueue = .poll 0 :: q) (hb : s.blk.busy = false) :
    hostTurn s =
      .next (((s.withQueue q).withBlk { s.blk with duties := [] }).pushRead (.reg s.blk.statusWord)) := by
  have hread : exec .rdStatus (s.withQueue q) =
      .next (((s.withQueue q).withBlk { s.blk with duties := [] }).pushRead (.reg s.blk.statusWord)) := by
    simp [exec, execRdStatus, returnWord, hb]
  simp only [hostTurn, h, atBlock_zero, hread, andThen, State.readBusy_pushRead_statusWord, hb, Bool.false_eq_true,
    if_false]

end Poll

/-- Settles O46: the bit `POLL` looks at is BUSY of the block it has read. -/
theorem pollRepeatsWhileBusy : Obligations.PollRepeatsWhileBusy := by
  intro s q ts hq hs
  have hturn : step s = hostTurn (s.withSched ts) := step_of_listed hs
  cases hb : s.blk.busy with
  | true =>
    exact ⟨_, hturn.trans (hostTurn_of_poll_busy (s := s.withSched ts) hq hb), rfl, rfl, rfl, fun _ => ⟨hq, rfl⟩,
      fun hf => absurd hf (Block.busy_iff.mp hb)⟩
  | false =>
    exact ⟨_, hturn.trans (hostTurn_of_poll_idle (s := s.withSched ts) hq hb), rfl, rfl, rfl,
      fun hf => absurd (Block.busy_eq_false_iff.mp hb) hf, fun _ => ⟨rfl, rfl⟩⟩

end Sys2Proof.Machine

/-! PROOFS of 40_command.md. Register accesses (R76, R77, R80, R81), the command write: acceptance check, accept and
rejection (R82, R83, R85, R88), host-protocol violations (R84), and whose step it is (R75, R86, R87). -/

namespace Sys2Proof.Machine

/-! The register port: a Host turn runs the instruction its access decodes to (R75, 30_encoding.md R72). -/

/-- A register access that decodes at a peer is its instruction, with that peer brought into focus and put back. -/
theorem regAccess_of_decode_at_peer {x : Bus} {s : State} {i : Instr} {j : Nat} {b : Block} (hb : s.peers[j]? = some b)
    (hk : s.windowOf (busRegion x) = some (j + 1)) (h : decode b.port.base x = .ok i) :
    regAccess x s = andThen (exec i (s.swap j b)) fun t => .next (t.unswap j) := by
  obtain ⟨-, hlo, hhi⟩ := inside_of_decode h
  have hbeside : s.noteBeside x = s :=
    State.noteBeside_of_inside (List.mem_cons_of_mem _ (List.mem_of_getElem? hb)) hlo hhi
  have hstep : windowStep x (s.swap j b) = exec i (s.swap j b) := windowStep_of_ok h
  rw [regAccess_of_window hk, hbeside, atBlock_of_present _ _ hb, hstep]

/-- Settles O5: the listed Host turn is the register access, which lies inside the one window it decodes at. -/
theorem stepRunsTheDecodedAccess : Obligations.StepRunsTheDecodedAccess := by
  intro s x q ts i hq hs
  have hturn : step s = regAccess x ((s.withSched ts).withQueue q) :=
    (step_of_listed hs).trans (hostTurn_of_reg (s := s.withSched ts) hq)
  exact ⟨fun h => hturn.trans (regAccess_of_decode h),
    fun j b hb hk h => hturn.trans (regAccess_of_decode_at_peer hb hk h)⟩

/-! Parameter, STATUS and RESULT_LEN accesses (40_command.md R76, R77, R80, R81). -/

/-- Settles O7: each write replaces its one register. -/
theorem parameterWritesStoreTheirValue : Obligations.ParameterWritesStoreTheirValue :=
  fun _ _ => ⟨rfl, rfl, rfl⟩

/-- Settles O8: each read returns its register, which is what a write has left there. -/
theorem parameterReadsReturnTheRegister : Obligations.ParameterReadsReturnTheRegister := by
  refine ⟨fun s => ⟨rfl, rfl, rfl⟩, fun s x => ?_, rfl, rfl, rfl⟩
  obtain ⟨haddr, hlen, hdst⟩ := parameterWritesStoreTheirValue s x
  exact ⟨_, _, _, _, _, _, haddr, rfl, rfl, hlen, rfl, rfl, hdst, rfl, rfl⟩

/-- The three flag bits of STATUS (10_state.md R23). -/
theorem toNat_statusFlags : ∀ err done busy : Bool,
    ((BitVec.ofBool err).setWidth 32 <<< 2 ||| ((BitVec.ofBool done).setWidth 32 <<< 1 |||
      (BitVec.ofBool busy).setWidth 32) : Word).toNat = err.toNat * 4 + done.toNat * 2 + busy.toNat := by
  decide

/-- The STATUS word as a sum: ERRCODE stands above the three flag bits (40_command.md R80). -/
theorem Block.toNat_statusWord (b : Block) :
    b.statusWord.toNat = b.errcode.toNat * 16 + b.err.toNat * 4 + b.done.toNat * 2 + b.busy.toNat := by
  have hflags : b.err.toNat * 4 + b.done.toNat * 2 + b.busy.toNat < 2 ^ 4 := by
    have herr := b.err.toNat_le
    have hdone := b.done.toNat_le
    have hbusy := b.busy.toNat_le
    omega
  have hcode : (b.errcode.setWidth 32 <<< 4).toNat = 2 ^ 4 * b.errcode.toNat := by
    have hlt := b.errcode.isLt
    rw [BitVec.toNat_shiftLeft, BitVec.toNat_setWidth, Nat.shiftLeft_eq]
    omega
  rw [Block.statusWord, BitVec.or_assoc, BitVec.or_assoc, BitVec.toNat_or, hcode, toNat_statusFlags,
    ← Nat.two_pow_add_eq_or_of_lt hflags]
  omega

theorem execRdStatus_eq (s : State) :
    execRdStatus s = .next
      { s with
        reads := .reg s.blk.statusWord :: s.reads
        blk := { s.blk with duties := if s.blk.busy then s.blk.duties else [] } } := by
  cases hb : s.blk.busy <;> simp [execRdStatus, returnWord, State.pushRead, State.withBlk, hb]

/-- Settles O9. -/
theorem statusReadReturnsTheFlags : Obligations.StatusReadReturnsTheFlags := by
  intro s
  have hbusy : s.blk.busy = decide (s.blk.fsm ≠ .idle) := by rw [Bool.eq_iff_iff, Block.busy_iff, decide_eq_true_iff]
  exact ⟨s.blk.statusWord, hbusy ▸ s.blk.toNat_statusWord, execRdStatus_eq s⟩

theorem execRdResultLen_of_idle {s : State} (h : s.blk.fsm = .idle) :
    execRdResultLen s = returnWord s.blk.resultLen s :=
  if_neg (Bool.eq_false_iff.mp (Block.busy_eq_false_iff.mpr h))

theorem execRdResultLen_of_busy {s : State} (h : s.blk.fsm ≠ .idle) :
    execRdResultLen s = returnWord (Config.resultLenDraw s.draws) s.nextDraw :=
  if_pos (Block.busy_iff.mpr h)

/-- Settles O11: the two branches of the read. -/
theorem resultLenReadReturnsResultOrFreeValue : Obligations.ResultLenReadReturnsResultOrFreeValue :=
  fun _ => ⟨execRdResultLen_of_idle, execRdResultLen_of_busy⟩

/-! The acceptance check (40_command.md R83). -/

theorem eq_nullAddr_iff {a : Word} : a = Config.nullAddr ↔ a.toNat = 0 := by
  simp [Config.nullAddr, BitVec.toNat_eq]

theorem capOf_eq (cmd : Command) (l : Nat) : capOf cmd l = if cmd = .encode then l + (l + 253) / 254 + 2 else l := by
  cases cmd <;> simp [capOf, capEnc, capDec, ceilDiv, Config.fullRun]

/-- The tests of a legal command in numbers, in their order. -/
theorem check_of_legal {cmd : Command} (hcmd : cmd ≠ .illegal) (sa sl da : Word) :
    check cmd sa sl da =
      if sa.toNat = 0 ∨ da.toNat = 0 then .nullBuffer
      else if sa.toNat + sl.toNat > 2 ^ 32 ∨ da.toNat + capOf cmd sl.toNat > 2 ^ 32 then .addrRange
      else if sl.toNat > 0 ∧ capOf cmd sl.toNat > 0 ∧ sa.toNat < da.toNat + capOf cmd sl.toNat ∧
          da.toNat < sa.toNat + sl.toNat then .overlap
      else .none := by
  simp only [check, if_neg hcmd, eq_nullAddr_iff, Region.meets_iff, srcRegion, dstRegion, Nat.lt_add_right_iff_pos,
    gt_iff_lt, Config.memSize]

/-- Settles O14: each clause is one branch of the check. -/
theorem acceptanceCheckFollowsItsOrder : Obligations.AcceptanceCheckFollowsItsOrder := by
  intro cmd sa sl da cap hcap
  rw [← capOf_eq] at hcap
  subst hcap
  refine ⟨fun h => h ▸ check_illegal sa sl da, fun h hnull => ?_, fun h hsa hda hrange => ?_,
    fun h hsa hda hsrc hdst => ⟨fun hmeets => ?_, fun hapart => ?_⟩⟩
  · rw [check_of_legal h, if_pos hnull]
  · rw [check_of_legal h, if_neg (not_or.mpr ⟨hsa, hda⟩), if_pos hrange]
  · rw [check_of_legal h, if_neg (not_or.mpr ⟨hsa, hda⟩), if_neg (by omega), if_pos hmeets]
  · rw [check_of_legal h, if_neg (not_or.mpr ⟨hsa, hda⟩), if_neg (by omega), if_neg hapart]

/-! The command write: while BUSY (40_command.md R85), rejected (R88), accepted (R82). -/

/-- Settles O17: all three are the command write, which is not looked at while BUSY. -/
theorem commandWhileBusyOnlyRecordsTheFault : Obligations.CommandWhileBusyOnlyRecordsTheFault := by
  intro s w h
  have hb : s.blk.busy = true := Block.busy_iff.mpr h
  exact ⟨writeCommand_of_busy hb, writeCommand_of_busy hb, writeCommand_of_busy hb⟩

/-- STATUS of an idle block with DONE and ERR set (40_command.md R88). -/
theorem Block.statusWord_of_rejected {b : Block} (hf : b.fsm = .idle) (hd : b.done = true) (he : b.err = true) :
    b.statusWord = (b.errcode.setWidth 32 <<< 4) ||| 0x6#32 := by
  rw [Block.statusWord, Block.busy_eq_false_iff.mpr hf, hd, he, BitVec.or_assoc, BitVec.or_assoc]
  rfl

/-- Settles O13: a code other than NONE is a rejection. -/
theorem rejectionWritesStatusAndResultLenOnly : Obligations.RejectionWritesStatusAndResultLenOnly := by
  intro s e hf he
  have hb : s.blk.busy = false := Block.busy_eq_false_iff.mpr hf
  exact ⟨fun hc => ⟨writeCommand_of_reject (w := 1) hb hc he, rfl⟩,
    fun hc => ⟨writeCommand_of_reject (w := 2) hb hc he, rfl⟩, Block.statusWord_of_rejected hf rfl rfl⟩

/-- The start states of R96 and R117 ask whether the source is empty. -/
theorem ite_zero_lt_word {α : Type} (l : Word) (a b : α) : (if 0 < l then a else b) = if l = 0 then b else a := by
  by_cases h : l = 0
  · simp [h]
  · rw [if_neg h, if_pos (by bv_omega)]

/-- The block after an accept (40_command.md R82). -/
def Block.accepted (cmd : Command) (b : Block) : Block :=
  { b.latch.acceptFlags.init cmd with duties := b.newDuty cmd :: b.duties }

theorem Block.accepted_encode (b : Block) :
    b.accepted .encode =
      { b with
        done := false, err := false, errcode := 0, S := b.srcAddr, L := b.srcLen, D := b.dstAddr
        i := 0, cur := 1, codep := 0, code := 1, fsm := if b.srcLen = 0 then .encFinal else .encRead
        duties := { cmd := .encode, s := b.srcAddr, l := b.srcLen, d := b.dstAddr } :: b.duties } := by
  rw [← ite_zero_lt_word]
  rfl

theorem Block.accepted_decode (b : Block) :
    b.accepted .decode =
      { b with
        done := false, err := false, errcode := 0, S := b.srcAddr, L := b.srcLen, D := b.dstAddr
        i := 0, cur := 0, block := 0, zpend := false, fsm := if b.srcLen = 0 then .complete else .decCode
        duties := { cmd := .decode, s := b.srcAddr, l := b.srcLen, d := b.dstAddr } :: b.duties } := by
  rw [← ite_zero_lt_word]
  rfl

theorem Block.statusWord_accepted {cmd : Command} (hcmd : cmd ≠ .illegal) (b : Block) :
    (b.accepted cmd).statusWord = 0x00000001#32 := by
  have hb : (b.accepted cmd).busy = true := Block.busy_init hcmd b.latch.acceptFlags
  have hflags : (b.accepted cmd).done = false ∧ (b.accepted cmd).err = false ∧ (b.accepted cmd).errcode = 0 := by
    cases cmd <;> exact ⟨rfl, rfl, rfl⟩
  obtain ⟨hd, he, hc⟩ := hflags
  rw [Block.statusWord, hb, hd, he, hc]
  rfl

/-- All that an accept changes outside the block: HostRace, if R63 clause 3 or 4 fails (log 11). -/
theorem accept_spec (cmd : Command) (s : State) :
    ∃ t, accept cmd s = .next t ∧ t.blk = s.blk.accepted cmd ∧ t.mem = s.mem ∧ s.sameAround t ∧
      t.faults = (if s.acceptRace (s.blk.newDuty cmd) then { s.faults with hostRace := true } else s.faults) :=
  ⟨_, rfl, rfl, rfl, ⟨rfl, rfl, rfl, rfl, rfl, rfl⟩, rfl⟩

/-- Settles O15. -/
theorem acceptedEncodeLatchesAndStarts : Obligations.AcceptedEncodeLatchesAndStarts := by
  intro s hf hc
  have hgo : writeCommand 0x00000001#32 s = accept .encode s :=
    writeCommand_of_accept (w := 1) (Block.busy_eq_false_iff.mpr hf) hc
  obtain ⟨t, hacc, hblk, hmem, haround, hfaults⟩ := accept_spec .encode s
  exact ⟨t, hgo.trans hacc, hgo.trans hacc, hblk.trans s.blk.accepted_encode,
    hblk ▸ Block.statusWord_accepted (by decide) s.blk, hmem, haround, hfaults⟩

/-- Settles O16. -/
theorem acceptedDecodeLatchesAndStarts : Obligations.AcceptedDecodeLatchesAndStarts := by
  intro s hf hc
  have hgo : writeCommand 0x00000002#32 s = accept .decode s :=
    writeCommand_of_accept (w := 2) (Block.busy_eq_false_iff.mpr hf) hc
  obtain ⟨t, hacc, hblk, hmem, haround, hfaults⟩ := accept_spec .decode s
  exact ⟨t, hgo.trans hacc, hgo.trans hacc, hblk.trans s.blk.accepted_decode,
    hblk ▸ Block.statusWord_accepted (by decide) s.blk, hmem, haround, hfaults⟩

/-! The frame of the instructions. -/

/-- A command write changes neither memory nor anything around the block, nor a parameter register. -/
theorem writeCommand_frame (w : Word) (s : State) :
    Answers (fun t => t.mem = s.mem ∧ s.sameAround t ∧ t.blk.port = s.blk.port ∧ t.blk.srcAddr = s.blk.srcAddr ∧
      t.blk.srcLen = s.blk.srcLen ∧ t.blk.dstAddr = s.blk.dstAddr) (writeCommand w s) := by
  obtain ⟨-, h⟩ | ⟨-, -, h⟩ | ⟨-, -, h⟩ := writeCommand_cases w s
  · exact h ▸ answers_next ⟨rfl, ⟨rfl, rfl, rfl, rfl, rfl, rfl⟩, rfl, rfl, rfl, rfl⟩
  · obtain ⟨t, hacc, hblk, hmem, haround, -⟩ := accept_spec (decodeCmd w) s
    have hkept (cmd : Command) : (s.blk.accepted cmd).port = s.blk.port ∧
        (s.blk.accepted cmd).srcAddr = s.blk.srcAddr ∧ (s.blk.accepted cmd).srcLen = s.blk.srcLen ∧
        (s.blk.accepted cmd).dstAddr = s.blk.dstAddr := by
      cases cmd <;> exact ⟨rfl, rfl, rfl, rfl⟩
    exact ⟨t, h.trans hacc, hmem, haround, hblk ▸ hkept _⟩
  · exact h ▸ answers_next ⟨rfl, ⟨rfl, rfl, rfl, rfl, rfl, rfl⟩, rfl, rfl, rfl, rfl⟩

/-- An instruction that is no command write changes at most a parameter register by its own write, the duty record, and
the Host's variables with the count of free values. -/
theorem exec_of_no_command {i : Instr} (he : i ≠ .encode) (hd : i ≠ .decode) (hw : ∀ w, i ≠ .wrCmd w)
    (s : State) :
    ∃ a l d u r n,
      exec i s = .next { s with
        blk := { s.blk with srcAddr := a, srcLen := l, dstAddr := d, duties := u }, reads := r, draws := n } ∧
      (a ≠ s.blk.srcAddr → ∃ x, i = .wrSrcAddr x) ∧ (l ≠ s.blk.srcLen → ∃ x, i = .wrSrcLen x) ∧
      (d ≠ s.blk.dstAddr → ∃ x, i = .wrDstAddr x) := by
  cases i with
  | encode => exact absurd rfl he
  | decode => exact absurd rfl hd
  | wrCmd w => exact absurd rfl (hw w)
  | wrSrcAddr x => exact ⟨x, _, _, _, _, _, rfl, fun _ => ⟨x, rfl⟩, (absurd rfl ·), (absurd rfl ·)⟩
  | wrSrcLen x => exact ⟨_, x, _, _, _, _, rfl, (absurd rfl ·), fun _ => ⟨x, rfl⟩, (absurd rfl ·)⟩
  | wrDstAddr x => exact ⟨_, _, x, _, _, _, rfl, (absurd rfl ·), (absurd rfl ·), fun _ => ⟨x, rfl⟩⟩
  | rdSrcAddr | rdSrcLen | rdDstAddr =>
    exact ⟨_, _, _, _, _, _, rfl, (absurd rfl ·), (absurd rfl ·), (absurd rfl ·)⟩
  | rdStatus => exact ⟨_, _, _, _, _, _, execRdStatus_eq s, (absurd rfl ·), (absurd rfl ·), (absurd rfl ·)⟩
  | rdResultLen =>
    by_cases hf : s.blk.fsm = .idle
    · exact ⟨_, _, _, _, _, _, execRdResultLen_of_idle hf, (absurd rfl ·), (absurd rfl ·), (absurd rfl ·)⟩
    · exact ⟨_, _, _, _, _, _, execRdResultLen_of_busy hf, (absurd rfl ·), (absurd rfl ·), (absurd rfl ·)⟩

/-- Settles O18: an instruction is a command write or none. -/
theorem everyInstructionCompletesInsideItsFrame : Obligations.EveryInstructionCompletesInsideItsFrame := by
  intro i s
  by_cases hcmd : ∃ w, exec i s = writeCommand w s ∧ (i = .encode ∨ i = .decode ∨ i = .wrCmd w)
  · obtain ⟨w, hexec, hi⟩ := hcmd
    obtain ⟨t, hgo, hmem, ⟨hpeers, hqueue, -, hsched, -, hplatform⟩, hport, hsa, hsl, hda⟩ :=
      writeCommand_frame w s
    refine ⟨t, hexec.trans hgo, hmem, hpeers, hqueue, hsched, hplatform, hport, (absurd hsa ·), (absurd hsl ·),
      (absurd hda ·), fun he hd hw => ?_⟩
    obtain h | h | h := hi
    · exact absurd h he
    · exact absurd h hd
    · exact absurd h (hw w)
  · have he : i ≠ .encode := fun h => hcmd ⟨1, h ▸ rfl, .inl h⟩
    have hd : i ≠ .decode := fun h => hcmd ⟨2, h ▸ rfl, .inr (.inl h)⟩
    have hw (w : Word) : i ≠ .wrCmd w := fun h => hcmd ⟨w, h ▸ rfl, .inr (.inr h)⟩
    obtain ⟨a, l, d, u, r, n, hgo, ha, hl, hdst⟩ := exec_of_no_command he hd hw s
    exact ⟨_, hgo, rfl, rfl, rfl, rfl, rfl, rfl, ha, hl, hdst, fun _ _ _ => by simp⟩

/-! Host-protocol violations (40_command.md R84, R85). -/

/-- The accesses to a window at `base` that are no legal transaction (40_command.md R84, 10_state.md R28, log 24). -/
def Violates (base : Nat) (x : Bus) : Prop :=
  x = .rd base 4 ∨ (∃ d, x = .wr (base + 0x04) d ∨ x = .wr (base + 0x14) d) ∨ x.addr = base + 0x18 ∨
    x.addr = base + 0x1C ∨ x.width ≠ 4 ∨ x.addr < base ∨ (x.addr - base) % 4 ≠ 0

/-- No instruction's transaction violates the protocol. -/
theorem not_violates_encode (base : Nat) (i : Instr) : ¬ Violates base (encode base i) := by
  rintro (h | ⟨d, h | h⟩ | h)
  · cases i <;> simp [encode] at h
  · cases i <;> simp [encode] at h
  · cases i <;> simp [encode] at h
  · cases i <;> simp [encode, Bus.addr, Bus.width] at h

/-- A violation decodes to no instruction, for an access that decodes is that instruction's transaction. -/
theorem Violates.decode_eq_error {base : Nat} {x : Bus} (h : Violates base x) : ∃ e, decode base x = .error e := by
  cases hd : decode base x with
  | error e => exact ⟨e, rfl⟩
  | ok i =>
    obtain ⟨-, rfl⟩ := encodeOfDecodedAccessIsTheAccess base x i hd
    exact absurd h (not_violates_encode base i)

theorem windowStep_of_violates {x : Bus} {s : State} (h : Violates s.blk.port.base x) :
    windowStep x s = .next (s.record .hostProtocol) := by
  obtain ⟨e, he⟩ := h.decode_eq_error
  exact windowStep_of_error he

/-- A write to CMD while BUSY is recorded, of whatever width (40_command.md R84, R85). -/
theorem windowStep_of_command_while_busy {d : List Byte} {s : State} (hb : s.blk.busy = true) :
    windowStep (.wr s.blk.port.base d) s = .next (s.record .hostProtocol) := by
  cases h : decode s.blk.port.base (.wr s.blk.port.base d) with
  | error e => exact windowStep_of_error h
  | ok i =>
    obtain ⟨-, henc⟩ := encodeOfDecodedAccessIsTheAccess _ _ i h
    rw [windowStep_of_ok h]
    cases i with
    | encode | decode | wrCmd w => exact writeCommand_of_busy hb
    | _ => simp [encode] at henc

/-- An action that only records a fault does so at every block. -/
theorem atBlock_of_record {k : Nat} {f : State → Result} {absent : Result} {s : State} {b : Block} {e : ModelFault}
    (hb : (s.blk :: s.peers)[k]? = some b) (hf : ∀ s', s'.blk = b → f s' = .next (s'.record e)) :
    atBlock k f absent s = .next (s.record e) := by
  cases k with
  | zero => exact hf s (Option.some.inj hb)
  | succ j =>
    have hb : s.peers[j]? = some b := hb
    have hback : ((s.swap j b).record e).unswap j = s.record e := by
      rw [State.unswap_of_peers (t := (s.swap j b).record e) hb rfl, State.record_blk, State.swap_blk,
        set_of_getElem? hb]
      rfl
    rw [atBlock_of_present f absent hb, hf _ rfl, andThen, hback]

/-- A Host turn whose access touches a window is a register access, in a shared map a memory access too (log 16). -/
theorem step_of_window {s : State} {x : Bus} {q : List HostAction} {ts : List Turn} {k : Nat}
    (hs : s.sched = .host :: ts)
    (hq : s.hostQueue = .reg x :: q ∨ (s.platform.sharedMap = true ∧ s.hostQueue = .mem x :: q))
    (hk : s.windowOf (busRegion x) = some k) : step s = regAccess x ((s.withSched ts).withQueue q) := by
  rw [step_of_listed hs]
  obtain hq | ⟨hp, hq⟩ := hq
  · exact hostTurn_of_reg (s := s.withSched ts) hq
  · exact hostTurn_of_mem_at_window (s := s.withSched ts) hq hp hk

/-- The flags after a violation that may also touch cells beside the window. -/
theorem State.record_recordIf (s : State) (race : Bool) :
    (s.recordIf race .hostRace).record .hostProtocol =
      { s with faults := { hostProtocol := true, hostRace := s.faults.hostRace || race } } := by
  cases race <;> simp [State.record, State.recordIf, FaultFlags.set]

/-- A register access that only records HostProtocol where it reaches; HostRace is noted for the cells beside. -/
theorem regAccess_of_record {x : Bus} {s : State} {k : Nat} {b : Block} (hk : s.windowOf (busRegion x) = some k)
    (hb : (s.blk :: s.peers)[k]? = some b)
    (hf : ∀ s', s'.blk = b → windowStep x s' = .next (s'.record .hostProtocol)) :
    regAccess x s = .next { s with faults :=
      { hostProtocol := true, hostRace := s.faults.hostRace || (s.platform.sharedMap && s.touchesBeside x) } } := by
  rw [regAccess_of_window hk, atBlock_of_record (s := s.noteBeside x) hb hf, State.noteBeside, State.record_recordIf]

/-- Settles O4: a violation decodes to no instruction, or to a command write while BUSY, and both only record the fault;
cells beside the window are noted before. -/
theorem protocolViolationsOnlyRecordHostProtocol : Obligations.ProtocolViolationsOnlyRecordHostProtocol := by
  intro s
  refine ⟨fun x q ts k b hs hq hk hb hx => ?_, fun x hx => windowStep_of_violates hx,
    fun w hb => writeCommand_of_busy hb, fun hf ⟨_, hend⟩ => by simp [hend] at hf⟩
  have hx : Violates b.port.base x ∨ (b.busy = true ∧ ∃ d, x = .wr b.port.base d) := by
    simpa only [Violates, or_assoc, or_comm, or_left_comm] using hx
  have hwindow (s' : State) (hblk : s'.blk = b) : windowStep x s' = .next (s'.record .hostProtocol) := by
    subst hblk
    obtain hx | ⟨hbusy, d, rfl⟩ := hx
    · exact windowStep_of_violates hx
    · exact windowStep_of_command_while_busy hbusy
  refine ⟨s.platform.sharedMap && s.touchesBeside x, ?_, ?_⟩
  · exact (step_of_window hs hq hk).trans (regAccess_of_record (s := (s.withSched ts).withQueue q) hk hb hwindow)
  · rw [Bool.and_eq_true, State.touchesBeside_iff]
    rfl

/-! COMPLETE, and whose step it is (40_command.md R75, R86, R87). -/

/-- Settles O25. -/
theorem completeReportsTheCursor : Obligations.CompleteReportsTheCursor := by
  intro s hf
  exact ⟨_, engineStep_complete hf, rfl, by simp [Block.statusWord, Block.busy], rfl⟩

/-- With no enabled Engine before it, the first enabled peer moves (log 7). -/
theorem defaultTurn_of_enabled_peer {s : State} {j : Nat} {b : Block} (hfocus : s.blk.enabled = false)
    (hb : s.peers[j]? = some b) (hen : b.enabled = true)
    (hfirst : ∀ (k : Nat) (p : Block), k < j → s.peers[k]? = some p → p.enabled = false) :
    defaultTurn s = .engine (j + 1) := by
  obtain ⟨hj, rfl⟩ := List.getElem?_eq_some_iff.mp hb
  have hidx : s.peers.findIdx? Block.enabled = some j :=
    List.findIdx?_eq_some_iff_getElem.mpr ⟨hj, hen, fun k hk => by
      simp [hfirst k _ hk (List.getElem?_eq_getElem (hk.trans hj))]⟩
  simp [defaultTurn, List.findIdx?_cons, hfocus, hidx]

/-- Settles O43: each clause is one case of whose turn it is. -/
theorem enabledEngineMovesWhenNoTurnIsListed : Obligations.EnabledEngineMovesWhenNoTurnIsListed := by
  refine fun s => ⟨fun ts hs => ?_, fun hs hen => ?_, fun j b hs hfocus hb hen hfirst => ?_, fun hs hnone => ?_⟩
  · exact step_of_listed hs
  · rw [step_of_none_listed hs, defaultTurn_of_enabled hen]
    rfl
  · rw [step_of_none_listed hs, defaultTurn_of_enabled_peer hfocus hb hen hfirst]
    exact atBlock_of_present engineStep _ hb
  · have hback : ({ s with sched := [.host] } : State).withSched [] = s := by rw [← hs]; rfl
    rw [step_of_none_listed hs, defaultTurn_of_none_enabled hnone, step_of_listed (ts := []) rfl, hback]

theorem Block.enabled_eq_false_of_idle {b : Block} (h : b.busy = false) : b.enabled = false := by
  simp [Block.enabled, h]

theorem hostTurn_of_nil {s : State} (h : s.hostQueue = []) : hostTurn s = .next s := by
  simp [hostTurn, h]

/-- Settles O45: the turn falls to the Host, which has no action left. -/
theorem finishedRunStaysAsItIs : Obligations.FinishedRunStaysAsItIs := by
  intro s ⟨hq, hidle⟩ hs
  rw [step_of_none_listed hs, defaultTurn_of_none_enabled fun b hb => Block.enabled_eq_false_of_idle (hidle b hb)]
  exact hostTurn_of_nil hq

end Sys2Proof.Machine

/-! PROOFS of 41_encoder.md. The steps of an ENCODE (R98 to R103), `encode_fn` block by block with its zeros, its length
and its edge cases (R105 to R107), and the run of an ENCODE (R104, R110). -/

namespace Sys2Proof.Machine

/-! A counter one higher that fits its register (00_scope.md R8). -/

theorem ofNat_toNat_succ {w : Nat} (x : BitVec w) : BitVec.ofNat w (x.toNat + 1) = x + 1 := by
  rw [BitVec.ofNat_add, BitVec.ofNat_toNat, BitVec.setWidth_eq]
  rfl

theorem fitWord_succ {x : Word} {k : Word → Result} (h : x.toNat + 1 < 2 ^ 32) :
    fitWord (x.toNat + 1) k = k (x + 1) := by
  rw [fitWord_of_lt h, ofNat_toNat_succ]

theorem fitByte_succ {x : Byte} {k : Byte → Result} (h : x.toNat + 1 < 2 ^ 8) :
    fitByte (x.toNat + 1) k = k (x + 1) := by
  rw [fitByte_of_lt h, ofNat_toNat_succ]

/-! The rule of an Engine step that makes one access and then writes the block in focus (20_memory.md R52). -/

section Access
variable {s : State} {a : Nat}

theorem engineStep_of_memRead {k : Byte → State → Result} (b : Block) (h : s.inv)
    (hstep : engineStep s = memRead a s k) (hr : s.blk.request = some (.read, a))
    (hd : memAdmit s.blk.port.denied .read a = true)
    (hk : ∀ s', s'.blk = s.blk → k (s.mem.readByte a) s' = .next (s'.withBlk b)) :
    ∃ t, engineStep s = .next t ∧ t.blk = b ∧ t.mem = s.mem ∧ s.sameAround t ∧
      t.faults = (s.noteEngine .read a).faults :=
  ⟨_, (hstep.trans (memRead_of_admitted (h.blk.request_lt hr) hd)).trans (hk _ rfl), rfl, rfl,
    ⟨rfl, rfl, rfl, rfl, rfl, rfl⟩, rfl⟩

theorem engineStep_of_memWrite {x : Byte} {k : State → Result} (b : Block) (h : s.inv)
    (hstep : engineStep s = memWrite a x s k) (hr : s.blk.request = some (.write, a))
    (hd : memAdmit s.blk.port.denied .write a = true) (hk : ∀ s', s'.blk = s.blk → k s' = .next (s'.withBlk b)) :
    ∃ t, engineStep s = .next t ∧ t.blk = b ∧ s.mem.storesOnly t.mem a x ∧ s.sameAround t ∧
      t.faults = (s.noteEngine .write a).faults := by
  obtain ⟨hblk, -, hmem⟩ := h
  exact ⟨_, (hstep.trans (memWrite_of_admitted (hblk.request_lt hr) hd)).trans (hk _ rfl), rfl,
    fun c => Memory.readByte_writeByte hmem a c x, ⟨rfl, rfl, rfl, rfl, rfl, rfl⟩, rfl⟩

end Access

/-! The memory request of each encoder state (40_command.md R75). -/

section EncRequests
variable {b : Block}

theorem Block.request_of_encRead (hf : b.fsm = .encRead) : b.request = some (.read, b.S.toNat + b.i.toNat) := by
  rw [Block.request, hf]

theorem Block.request_of_encLit (hf : b.fsm = .encLit) : b.request = some (.write, b.D.toNat + b.cur.toNat) := by
  rw [Block.request, hf]

theorem Block.request_of_encFinZero (hf : b.fsm = .encFinZero) :
    b.request = some (.write, b.D.toNat + b.codep.toNat) := by
  rw [Block.request, hf]

theorem Block.request_of_encFinFull (hf : b.fsm = .encFinFull) :
    b.request = some (.write, b.D.toNat + b.codep.toNat) := by
  rw [Block.request, hf]

theorem Block.request_of_encFinal (hf : b.fsm = .encFinal) :
    b.request = some (.write, b.D.toNat + b.codep.toNat) := by
  rw [Block.request, hf]

theorem Block.request_of_encDelim (hf : b.fsm = .encDelim) : b.request = some (.write, b.D.toNat + b.cur.toNat) := by
  rw [Block.request, hf]

end EncRequests

/-! The steps of an ENCODE (41_encoder.md R98 to R103). -/

/-- Settles O19: an admitted read of the next source byte. -/
theorem encReadTakesTheNextSourceByte : Obligations.EncReadTakesTheNextSourceByte := by
  rintro s h hf a rfl hd
  obtain ⟨-, -, ⟨hread, -⟩, -⟩ := h.blk
  obtain ⟨hlt, -⟩ := hread hf
  have hfit : s.blk.i.toNat + 1 < 2 ^ 32 := by omega
  obtain ⟨t, hgo, hblk, hmem, haround, hfaults⟩ := engineStep_of_memRead
    { s.blk with
      byte := s.mem.readByte (s.blk.S.toNat + s.blk.i.toNat), i := s.blk.i + 1
      fsm := if s.mem.readByte (s.blk.S.toNat + s.blk.i.toNat) ≠ 0 then .encLit else .encFinZero }
    h (engineStep_encRead hf) (Block.request_of_encRead hf) hd fun s' hb => by rw [hb, fitWord_succ hfit]
  exact ⟨t, hgo, hblk, hlt, BitVec.toNat_add_of_lt hfit, hmem, haround, hfaults⟩

/-- Settles O20: `cur` stays below CAP_ENC(L) and `code` is at most 254, so both still count. -/
theorem encLitCopiesTheLiteral : Obligations.EncLitCopiesTheLiteral := by
  rintro s h hf a rfl hd
  obtain ⟨-, -, ⟨-, hbyte, -⟩, -⟩ := h.blk
  obtain ⟨-, -, -, -, -, h254, hne, -⟩ := hbyte (.inl hf)
  have hfit : s.blk.cur.toNat + 1 < 2 ^ 32 := h.blk.cur_succ_lt (hf ▸ rfl : s.blk.fsm.cmd = some .encode)
  have hfit8 : s.blk.code.toNat + 1 < 2 ^ 8 := by omega
  obtain ⟨t, hgo, hblk, hstores, haround, hfaults⟩ := engineStep_of_memWrite
    { s.blk with
      cur := s.blk.cur + 1, code := s.blk.code + 1
      fsm := if s.blk.code + 1 = 255 then .encFinFull
        else if s.blk.i.toNat < s.blk.L.toNat then .encRead else .encFinal }
    h (engineStep_encLit hf) (Block.request_of_encLit hf) hd fun s' hb => by
      rw [hb, fitWord_succ hfit, fitByte_succ hfit8]
      by_cases hfull : s.blk.code + 1 = 255
      · have hfull' : s.blk.code + 1 = Config.fullCode := hfull
        simp only [if_pos hfull, if_pos hfull']
      · have hfull' : ¬ s.blk.code + 1 = Config.fullCode := hfull
        simp only [if_neg hfull, if_neg hfull']
        rfl
  refine ⟨t, hgo, hblk, hne hf, h254, ?_, ?_, hstores, haround, hfaults⟩
  · rw [hblk]; exact BitVec.toNat_add_of_lt hfit8
  · rw [hblk]; exact BitVec.toNat_add_of_lt hfit

/-- Settles O21: the write is inside the destination, and `cur` still counts. -/
theorem encFinZeroClosesTheBlock : Obligations.EncFinZeroClosesTheBlock := by
  rintro s h hf a rfl hd
  obtain ⟨-, -, ⟨-, hbyte, -⟩, -⟩ := h.blk
  obtain ⟨-, -, -, -, h1, h254, -⟩ := hbyte (.inr hf)
  have hfit : s.blk.cur.toNat + 1 < 2 ^ 32 := h.blk.cur_succ_lt (hf ▸ rfl : s.blk.fsm.cmd = some .encode)
  obtain ⟨t, hgo, hblk, hstores, haround, hfaults⟩ := engineStep_of_memWrite
    { s.blk with
      code := 1, codep := s.blk.cur, cur := s.blk.cur + 1
      fsm := if s.blk.i.toNat < s.blk.L.toNat then .encRead else .encFinal }
    h (engineStep_encFinZero hf) (Block.request_of_encFinZero hf) hd fun s' hb => by rw [hb, fitWord_succ hfit]; rfl
  exact ⟨t, hgo, hblk, h1, h254, by rw [hblk]; exact BitVec.toNat_add_of_lt hfit, hstores, haround, hfaults⟩

/-- Settles O22: by whether input remains. -/
theorem encFinFullReservesOnlyIfInputRemains : Obligations.EncFinFullReservesOnlyIfInputRemains := by
  rintro s h hf a rfl hd
  obtain ⟨-, -, ⟨-, -, hfull, -⟩, -⟩ := h.blk
  obtain ⟨hle, -, -, hcode⟩ := hfull hf
  have hfit : s.blk.cur.toNat + 1 < 2 ^ 32 := h.blk.cur_succ_lt (hf ▸ rfl : s.blk.fsm.cmd = some .encode)
  have hr : s.blk.request = some (.write, s.blk.D.toNat + s.blk.codep.toNat) := Block.request_of_encFinFull hf
  by_cases hlt : s.blk.i.toNat < s.blk.L.toNat
  · obtain ⟨t, hgo, hblk, hstores, haround, hfaults⟩ := engineStep_of_memWrite
      { s.blk with code := 1, codep := s.blk.cur, cur := s.blk.cur + 1, fsm := .encRead }
      h (engineStep_encFinFull hf) hr hd fun s' hb => by
        simp only [hb, BitVec.lt_def, if_pos hlt, fitWord_succ hfit]
        rw [Block.toEncNext_of_lt (by exact hlt)]
    exact ⟨t, hgo, hcode, fun _ => ⟨hblk, by rw [hblk]; exact BitVec.toNat_add_of_lt hfit⟩, fun he => absurd he hlt.ne,
      hle, hstores, haround, hfaults⟩
  · obtain ⟨t, hgo, hblk, hstores, haround, hfaults⟩ := engineStep_of_memWrite
      { s.blk with code := 1, codep := s.blk.cur, fsm := .encFinal }
      h (engineStep_encFinFull hf) hr hd fun s' hb => by
        simp only [hb, BitVec.lt_def, if_neg hlt]
        rw [Block.toEncNext_of_le (by exact Nat.not_lt.mp hlt)]
    exact ⟨t, hgo, hcode, (absurd · hlt), fun _ => hblk, hle, hstores, haround, hfaults⟩

/-- Settles O23: the write is inside the destination, and no counter moves. -/
theorem encFinalWritesTheClosingCode : Obligations.EncFinalWritesTheClosingCode := by
  rintro s h hf a rfl hd
  obtain ⟨-, -, ⟨-, -, -, hend⟩, -⟩ := h.blk
  obtain ⟨-, -, -, hcodep, h1, h254⟩ := hend (.inl hf)
  obtain ⟨t, hgo, hblk, hstores, haround, hfaults⟩ := engineStep_of_memWrite { s.blk with fsm := .encDelim }
    h (engineStep_encFinal hf) (Block.request_of_encFinal hf) hd fun s' hb => by rw [hb]
  exact ⟨t, hgo, hblk, h1, h254, hcodep, hstores, haround, hfaults⟩

/-- Settles O24: the delimiter is inside the destination, and `cur` still counts. -/
theorem encDelimAppendsTheDelimiter : Obligations.EncDelimAppendsTheDelimiter := by
  rintro s h hf a rfl hd
  have hfit : s.blk.cur.toNat + 1 < 2 ^ 32 := h.blk.cur_succ_lt (hf ▸ rfl : s.blk.fsm.cmd = some .encode)
  obtain ⟨t, hgo, hblk, hstores, haround, hfaults⟩ := engineStep_of_memWrite
    { s.blk with cur := s.blk.cur + 1, fsm := .complete }
    h (engineStep_encDelim hf) (Block.request_of_encDelim hf) hd fun s' hb => by rw [hb, fitWord_succ hfit]
  exact ⟨t, hgo, hblk, by rw [hblk]; exact BitVec.toNat_add_of_lt hfit, hstores, haround, hfaults⟩

/-! The counts of full blocks (41_encoder.md R106, R109), case by case. -/

section FullBlocks
variable (last : Bool) (xs : List Byte) {x : Byte} {code : Nat}

theorem fullBlocksFrom_nil : fullBlocksFrom last code [] = 0 := rfl

theorem fullBlocksFrom_zero : fullBlocksFrom last code (0 :: xs) = fullBlocksFrom last 1 xs := if_pos rfl

theorem fullBlocksFrom_full (hx : x ≠ 0) :
    fullBlocksFrom last 254 (x :: xs) = (if last || !xs.isEmpty then 1 else 0) + fullBlocksFrom last 1 xs := by
  rw [fullBlocksFrom, if_neg hx, if_pos rfl]

theorem fullBlocksFrom_full_more (hx : x ≠ 0) (hxs : xs ≠ []) :
    fullBlocksFrom last 254 (x :: xs) = 1 + fullBlocksFrom last 1 xs := by
  rw [fullBlocksFrom_full last xs hx, if_pos (by simp [hxs])]

theorem fullBlocksFrom_literal (hx : x ≠ 0) (hc : code ≠ 254) :
    fullBlocksFrom last code (x :: xs) = fullBlocksFrom last (code + 1) xs := by
  rw [fullBlocksFrom, if_neg hx, if_neg (by omega)]

end FullBlocks

/-! `encode_fn` block by block (41_encoder.md R110). -/

/-- A finished block of the output: the code byte and the literals it counts. -/
def codedBlock (lits : List Byte) : List Byte := BitVec.ofNat 8 (lits.length + 1) :: lits

/-- The encoding from the open block on, which holds the literals `lits`, with the input `xs` still to come. A block of
254 literals is finished at once, and the end of the input opens no block after it. -/
def encFrom : List Byte → List Byte → List Byte
  | lits, [] => codedBlock lits ++ [Config.delimiter]
  | lits, x :: xs =>
    if x = 0 then codedBlock lits ++ encFrom [] xs
    else if lits.length = 253 then
      codedBlock (lits ++ [x]) ++ if xs = [] then [Config.delimiter] else encFrom [] xs
    else encFrom (lits ++ [x]) xs

@[simp] theorem length_codedBlock (lits : List Byte) : (codedBlock lits).length = lits.length + 1 := rfl

section EncFrom
variable {lits xs : List Byte} {x : Byte}

theorem encFrom_nil : encFrom lits [] = codedBlock lits ++ [Config.delimiter] := by rw [encFrom]

theorem encFrom_zero : encFrom lits (0 :: xs) = codedBlock lits ++ encFrom [] xs := by
  rw [encFrom, if_pos rfl]

theorem encFrom_full_end (hx : x ≠ 0) (hl : lits.length = 253) :
    encFrom lits [x] = codedBlock (lits ++ [x]) ++ [Config.delimiter] := by
  rw [encFrom, if_neg hx, if_pos hl, if_pos rfl]

theorem encFrom_full_more (hx : x ≠ 0) (hl : lits.length = 253) (hxs : xs ≠ []) :
    encFrom lits (x :: xs) = codedBlock (lits ++ [x]) ++ encFrom [] xs := by
  rw [encFrom, if_neg hx, if_pos hl, if_neg hxs]

theorem encFrom_literal (hx : x ≠ 0) (hl : lits.length ≠ 253) :
    encFrom lits (x :: xs) = encFrom (lits ++ [x]) xs := by
  rw [encFrom, if_neg hx, if_neg hl]

end EncFrom

/-- Induction along `encFrom`: the end of the input, a zero, a literal that fills the open block without or with input
behind it, and another literal. -/
theorem encFrom_induction {P : List Byte → List Byte → Prop} (nil : ∀ lits, P lits [])
    (zero : ∀ lits xs, P [] xs → P lits (0 :: xs))
    (full_end : ∀ lits x, x ≠ 0 → lits.length = 253 → P lits [x])
    (full_more : ∀ lits x xs, x ≠ 0 → lits.length = 253 → xs ≠ [] → P [] xs → P lits (x :: xs))
    (literal : ∀ lits x xs, x ≠ 0 → lits.length ≠ 253 → P (lits ++ [x]) xs → P lits (x :: xs))
    (lits xs : List Byte) : P lits xs := by
  induction xs generalizing lits with
  | nil => exact nil lits
  | cons x xs ih =>
    by_cases hx : x = 0
    · subst hx; exact zero lits xs (ih [])
    · by_cases hl : lits.length = 253
      · by_cases hxs : xs = []
        · subst hxs; exact full_end lits x hx hl
        · exact full_more lits x xs hx hl hxs (ih [])
      · exact literal lits x xs hx hl (ih _)

/-- The length of the rest of the output: a code byte for the open block and for each one opened after it, the literals,
and the delimiter (41_encoder.md R106). -/
theorem length_encFrom (lits xs : List Byte) :
    (encFrom lits xs).length = lits.length + xs.length + fullBlocksFrom false (lits.length + 1) xs + 2 := by
  induction lits, xs using encFrom_induction with
  | nil lits => simp [encFrom_nil, fullBlocksFrom_nil]
  | zero lits xs ih =>
    rw [encFrom_zero, fullBlocksFrom_zero, List.length_append, ih]
    grind [length_codedBlock]
  | full_end lits x hx hl =>
    rw [encFrom_full_end hx hl, hl, fullBlocksFrom_full _ _ hx]
    simp [hl, fullBlocksFrom_nil]
  | full_more lits x xs hx hl hxs ih =>
    rw [encFrom_full_more hx hl hxs, hl, fullBlocksFrom_full_more _ _ hx hxs, List.length_append, ih]
    grind [length_codedBlock]
  | literal lits x xs hx hl ih =>
    rw [encFrom_literal hx hl, ih, fullBlocksFrom_literal _ _ hx (by omega)]
    grind

/-! `encode_fn`'s loop runs through the blocks of `encFrom`. -/

/-- `encode_fn`'s variables with the finished bytes `out`, then the open block with `z` in its code cell and the
literals `lits`, and then the cells `pad`, not yet reserved. -/
def EncVars.inBlock (out lits : List Byte) (z : Byte) (pad : List Byte) : EncVars where
  out := out ++ z :: lits ++ pad
  cur := out.length + 1 + lits.length
  codep := out.length
  code := lits.length + 1

/-- The end of `encode_fn`: the closing code and the delimiter (41_encoder.md R110). -/
def EncVars.finish (e : EncVars) : List Byte :=
  ((e.out.set e.codep (BitVec.ofNat 8 e.code)).set e.cur Config.delimiter).take (e.cur + 1)

theorem encodeFn_eq_finish (b : List Byte) :
    encodeFn b = (encLoop b { out := List.replicate (nmax b.length) 0, cur := 1, codep := 0, code := 1 }).finish := rfl

theorem set_append_cons {α : Type} {n : Nat} {xs ys : List α} {x y : α} (h : n = xs.length) :
    (xs ++ y :: ys).set n x = xs ++ x :: ys := by
  simp [h]

section Loop
variable {out lits pad : List Byte} {x y z : Byte}

/-- The code put in its cell finishes the block. -/
theorem EncVars.set_code_inBlock :
    (EncVars.inBlock out lits z pad).out.set out.length (BitVec.ofNat 8 (lits.length + 1)) =
      out ++ codedBlock lits ++ pad := by
  simp [EncVars.inBlock, codedBlock]

theorem length_append_codedBlock : (out ++ codedBlock lits).length = out.length + 1 + lits.length := by
  rw [List.length_append, length_codedBlock]
  omega

/-- The delimiter goes behind everything written. -/
theorem take_set_delimiter {n : Nat} (h : n = out.length) :
    ((out ++ y :: pad).set n Config.delimiter).take (n + 1) = out ++ [Config.delimiter] := by
  rw [set_append_cons h, List.append_cons]
  exact List.take_left' (by simp [h])

theorem EncVars.finish_inBlock :
    (EncVars.inBlock out lits z (y :: pad)).finish = out ++ codedBlock lits ++ [Config.delimiter] := by
  rw [← take_set_delimiter (y := y) (pad := pad) length_append_codedBlock.symm, ← EncVars.set_code_inBlock (z := z)]
  rfl

theorem encPut_inBlock (hx : x ≠ 0) :
    encPut x (EncVars.inBlock out lits z (y :: pad)) = EncVars.inBlock out (lits ++ [x]) z pad := by
  have hcur : out.length + 1 + lits.length = (out ++ z :: lits).length := by
    rw [List.length_append, List.length_cons]
    omega
  rw [encPut, if_pos hx]
  simp only [EncVars.inBlock, set_append_cons hcur]
  simp [Nat.add_assoc]

/-- A finished block, and the next slot reserved (41_encoder.md R100, R101). -/
theorem encFinalise_inBlock_opening {more : Bool} (h : x = 0 ∨ lits.length = 254 ∧ more = true) :
    encFinalise x more (EncVars.inBlock out lits z (y :: pad)) = EncVars.inBlock (out ++ codedBlock lits) [] y pad := by
  have hfin : x = 0 ∨ (EncVars.inBlock out lits z (y :: pad)).code = 255 := h.imp_right fun h => congrArg (· + 1) h.1
  rw [encFinalise, if_pos hfin, if_pos (h.imp_right And.right)]
  simp only [EncVars.inBlock, codedBlock]
  simp
  omega

/-- A literal leaves a block open that is not full. -/
theorem encFinalise_inBlock_open {more : Bool} (hx : x ≠ 0) (hl : lits.length ≠ 254) :
    encFinalise x more (EncVars.inBlock out lits z pad) = EncVars.inBlock out lits z pad :=
  if_neg fun h => h.elim hx fun h => hl (Nat.succ.inj h)

/-- A full block at the end of the input reserves no slot: the closing code 01 and the delimiter are written to the same
cell (41_encoder.md R101 to R103). -/
theorem EncVars.finish_inBlock_full_end (hx : x ≠ 0) (hl : lits.length = 254) :
    (encFinalise x false (EncVars.inBlock out lits z (y :: pad))).finish =
      out ++ codedBlock lits ++ [Config.delimiter] := by
  have hfin : x = 0 ∨ (EncVars.inBlock out lits z (y :: pad)).code = 255 := .inr (congrArg (· + 1) hl)
  rw [encFinalise, if_pos hfin, if_neg (fun h => h.elim hx nofun),
    ← take_set_delimiter (y := y) (pad := pad) length_append_codedBlock.symm, ← EncVars.set_code_inBlock (z := z)]
  simp only [EncVars.finish, EncVars.inBlock, List.set_set]

end Loop

/-- `encode_fn`'s loop and its end write the encoding of the open block and of the input still to come, if there is room
for it. -/
theorem finish_encLoop_inBlock {out lits xs pad : List Byte} {z : Byte}
    (hpad : xs.length + fullBlocksFrom false (lits.length + 1) xs < pad.length) :
    (encLoop xs (EncVars.inBlock out lits z pad)).finish = out ++ encFrom lits xs := by
  obtain ⟨y, pad, rfl⟩ := List.exists_cons_of_length_pos (Nat.zero_lt_of_lt hpad)
  rw [List.length_cons] at hpad
  induction lits, xs using encFrom_induction generalizing out z y pad with
  | nil lits => rw [encLoop, EncVars.finish_inBlock, encFrom_nil, List.append_assoc]
  | zero lits xs ih =>
    rw [fullBlocksFrom_zero, List.length_cons] at hpad
    obtain ⟨y', pad, rfl⟩ := List.exists_cons_of_length_pos (l := pad) (by omega)
    have hput : encPut 0 (EncVars.inBlock out lits z (y :: y' :: pad)) = .inBlock out lits z (y :: y' :: pad) := rfl
    rw [encLoop, hput, encFinalise_inBlock_opening (.inl rfl), ih _ _ (by grind), encFrom_zero, List.append_assoc]
  | full_end lits x hx hl =>
    obtain ⟨y', pad, rfl⟩ := List.exists_cons_of_length_pos (l := pad) (by grind)
    have hfull : (lits ++ [x]).length = 254 := by rw [List.length_append, hl]; rfl
    rw [encLoop, encPut_inBlock hx, encLoop, encFrom_full_end hx hl, ← List.append_assoc]
    exact EncVars.finish_inBlock_full_end hx hfull
  | full_more lits x xs hx hl hxs ih =>
    rw [hl, fullBlocksFrom_full_more _ _ hx hxs, List.length_cons] at hpad
    obtain ⟨y', pad, rfl⟩ := List.exists_cons_of_length_pos (l := pad) (by omega)
    obtain ⟨y'', pad, rfl⟩ := List.exists_cons_of_length_pos (l := pad) (by grind)
    have hfull : (lits ++ [x]).length = 254 := by rw [List.length_append, hl]; rfl
    rw [encLoop, encPut_inBlock hx, encFinalise_inBlock_opening (.inr ⟨hfull, by simp [hxs]⟩),
      ih _ _ (by grind), encFrom_full_more hx hl hxs, List.append_assoc]
  | literal lits x xs hx hl ih =>
    rw [fullBlocksFrom_literal _ _ hx (by omega), List.length_cons] at hpad
    obtain ⟨y', pad, rfl⟩ := List.exists_cons_of_length_pos (l := pad) (by omega)
    have hopen : (lits ++ [x]).length ≠ 254 := by grind
    rw [encLoop, encPut_inBlock hx, encFinalise_inBlock_open hx hopen, ih _ _ (by grind), encFrom_literal hx hl]

/-- A full block takes 254 literals, and it counts for F(b) only if a byte follows it (41_encoder.md R106). -/
theorem fullBlocksFrom_more_le {lits : List Byte} (hlits : lits.length ≤ 253) (xs : List Byte) :
    254 * fullBlocksFrom false (lits.length + 1) xs ≤ lits.length + xs.length - 1 := by
  induction lits, xs using encFrom_induction with
  | nil lits => exact Nat.zero_le _
  | zero lits xs ih =>
    rw [fullBlocksFrom_zero]
    grind
  | full_end lits x hx hl => simp [hl, fullBlocksFrom_full _ _ hx, fullBlocksFrom_nil]
  | full_more lits x xs hx hl hxs ih =>
    have hpos : 0 < xs.length := List.length_pos_iff.mpr hxs
    rw [hl, fullBlocksFrom_full_more _ _ hx hxs]
    grind
  | literal lits x xs hx hl ih =>
    rw [fullBlocksFrom_literal _ _ hx (by omega)]
    grind

/-- The bound is met where no zero ends a block early. -/
theorem fullBlocksFrom_more_eq {lits xs : List Byte} (hlits : lits.length ≤ 253) (hxs : ∀ x ∈ xs, x ≠ 0) :
    fullBlocksFrom false (lits.length + 1) xs = (lits.length + xs.length - 1) / 254 := by
  induction lits, xs using encFrom_induction with
  | nil lits => grind [fullBlocksFrom_nil]
  | zero lits xs ih => exact absurd rfl (hxs 0 List.mem_cons_self)
  | full_end lits x hx hl => simp [hl, fullBlocksFrom_full _ _ hx, fullBlocksFrom_nil]
  | full_more lits x xs hx hl hne ih =>
    have hpos : 0 < xs.length := List.length_pos_iff.mpr hne
    rw [hl, fullBlocksFrom_full_more _ _ hx hne]
    grind
  | literal lits x xs hx hl ih =>
    rw [fullBlocksFrom_literal _ _ hx (by omega)]
    grind

theorem fullBlocksMore_le (b : List Byte) : fullBlocksMore b ≤ (b.length - 1) / 254 := by
  have h : 254 * fullBlocksMore b ≤ _ := fullBlocksFrom_more_le (lits := []) (Nat.zero_le _) b
  rw [List.length_nil] at h
  omega

/-- `encode_fn` is the encoding from an open block without literals (41_encoder.md R110). -/
theorem encodeFn_eq_encFrom (b : List Byte) : encodeFn b = encFrom [] b := by
  have hroom : ∃ m, nmax b.length = m + 1 ∧ b.length + fullBlocksMore b < m := by
    have hle := fullBlocksMore_le b
    refine ⟨nmax b.length - 1, ?_⟩
    unfold nmax Config.fullRun
    split <;> omega
  obtain ⟨m, hm, hlt⟩ := hroom
  rw [encodeFn_eq_finish, hm, List.replicate_succ]
  exact finish_encLoop_inBlock (out := []) (lits := []) (List.length_replicate.symm ▸ hlt)

/-! The zeros of an encoding (41_encoder.md R105). -/

/-- The byte 0 stands at the end and nowhere else. -/
def ZeroAtEndOnly (e : List Byte) : Prop := ∃ pre, e = pre ++ [0x00#8] ∧ ∀ x ∈ pre, x ≠ 0

theorem ZeroAtEndOnly.append {e pre : List Byte} (h : ZeroAtEndOnly e) (hpre : ∀ x ∈ pre, x ≠ 0) :
    ZeroAtEndOnly (pre ++ e) := by
  obtain ⟨pre', rfl, hpre'⟩ := h
  exact ⟨pre ++ pre', (List.append_assoc _ _ _).symm, fun x hx => (List.mem_append.mp hx).elim (hpre x) (hpre' x)⟩

theorem zeroAtEndOnly_delimiter : ZeroAtEndOnly [Config.delimiter] := ⟨[], rfl, nofun⟩

/-- A code byte is 1 to 255. -/
theorem codedBlock_ne_zero {lits : List Byte} (hl : lits.length ≤ 254) (h : ∀ x ∈ lits, x ≠ 0) :
    ∀ x ∈ codedBlock lits, x ≠ 0 := by
  intro x hx
  obtain rfl | hx := List.mem_cons.mp hx
  · bv_omega
  · exact h x hx

theorem zeroAtEndOnly_encFrom {lits : List Byte} (xs : List Byte) (hlits : lits.length ≤ 253)
    (h : ∀ x ∈ lits, x ≠ 0) : ZeroAtEndOnly (encFrom lits xs) := by
  have hsnoc {lits : List Byte} {x : Byte} (h : ∀ y ∈ lits, y ≠ 0) (hx : x ≠ 0) : ∀ y ∈ lits ++ [x], y ≠ 0 :=
    List.forall_mem_append.mpr ⟨h, List.forall_mem_singleton.mpr hx⟩
  induction lits, xs using encFrom_induction with
  | nil lits =>
    rw [encFrom_nil]; exact zeroAtEndOnly_delimiter.append (codedBlock_ne_zero (by omega) h)
  | zero lits xs ih =>
    rw [encFrom_zero]; exact (ih (by simp) nofun).append (codedBlock_ne_zero (by omega) h)
  | full_end lits x hx hl =>
    rw [encFrom_full_end hx hl]
    exact zeroAtEndOnly_delimiter.append (codedBlock_ne_zero (by simp [hl]) (hsnoc h hx))
  | full_more lits x xs hx hl hxs ih =>
    rw [encFrom_full_more hx hl hxs]
    exact (ih (by simp) nofun).append (codedBlock_ne_zero (by simp [hl]) (hsnoc h hx))
  | literal lits x xs hx hl ih =>
    rw [encFrom_literal hx hl]
    exact ih (by grind) (hsnoc h hx)

/-- Settles O54: no code byte is 0, no zero of the input is copied, and the delimiter stands at the end. -/
theorem encodingHasItsOnlyZeroAtTheEnd : Obligations.EncodingHasItsOnlyZeroAtTheEnd := by
  intro b
  rw [encodeFn_eq_encFrom]
  exact zeroAtEndOnly_encFrom b (Nat.zero_le _) nofun

/-! The length of an encoding (41_encoder.md R106). -/

theorem length_encodeFn (b : List Byte) : (encodeFn b).length = b.length + fullBlocksMore b + 2 := by
  rw [encodeFn_eq_encFrom, length_encFrom, List.length_nil, Nat.zero_add]
  rfl

/-- Settles O55: the length of `encFrom`, and the bound on the full blocks. -/
theorem encodingLengthMeetsItsBounds : Obligations.EncodingLengthMeetsItsBounds := by
  intro b
  have hle := fullBlocksMore_le b
  have heq (h : ∀ x ∈ b, x ≠ 0) : fullBlocksMore b = (b.length - 1) / 254 :=
    (fullBlocksFrom_more_eq (lits := []) (Nat.zero_le _) h).trans (by rw [List.length_nil, Nat.zero_add])
  rw [length_encodeFn]
  refine ⟨rfl, hle, fun h => h ▸ rfl, heq, by omega, ?_, ?_, ?_⟩
  · unfold nmax Config.fullRun; split <;> omega
  · unfold nmax Config.fullRun; split <;> omega
  · unfold capEnc ceilDiv Config.fullRun; omega

/-! Edge cases (41_encoder.md R107). -/

theorem encFrom_replicate_zero (k : Nat) (b : List Byte) :
    encFrom [] (List.replicate k 0 ++ b) = List.replicate k 1 ++ encFrom [] b := by
  induction k with
  | zero => rfl
  | succ k ih =>
    rw [List.replicate_succ, List.cons_append, encFrom_zero, ih]
    rfl

/-- Non-zero bytes that fill the open block finish it. -/
theorem encFrom_full_run {lits r : List Byte} (rest : List Byte) (hr : ∀ x ∈ r, x ≠ 0) (hlits : lits.length ≤ 253)
    (h : lits.length + r.length = 254) :
    encFrom lits (r ++ rest) =
      codedBlock (lits ++ r) ++ if rest = [] then [Config.delimiter] else encFrom [] rest := by
  induction r generalizing lits with
  | nil =>
    rw [List.length_nil] at h
    omega
  | cons x r ih =>
    obtain ⟨hx, hr⟩ := List.forall_mem_cons.mp hr
    rw [List.length_cons] at h
    rw [List.cons_append]
    by_cases hl : lits.length = 253
    · obtain rfl : r = [] := List.length_eq_zero_iff.mp (by omega)
      rw [List.nil_append, encFrom, if_neg hx, if_pos hl]
    · rw [encFrom_literal hx hl, ih hr (by grind) (by grind), List.append_assoc]
      rfl

/-- The coded block of 254 literals. -/
theorem codedBlock_of_full {r : List Byte} (h : r.length = 254) : codedBlock r = 255 :: r := by
  rw [codedBlock, h]
  rfl

/-- Settles O56: each of the three along `encFrom`. -/
theorem encodingEdgeCases : Obligations.EncodingEdgeCases := by
  have hrun {r : List Byte} (rest : List Byte) (hr : r.length = 254) (hne : ∀ x ∈ r, x ≠ 0) :
      encodeFn (r ++ rest) = 255 :: r ++ if rest = [] then [Config.delimiter] else encFrom [] rest := by
    rw [encodeFn_eq_encFrom, encFrom_full_run rest hne (Nat.zero_le _) (by simp [hr]), List.nil_append,
      codedBlock_of_full hr]
  refine ⟨rfl, fun k b => ?_, fun r hr hne => ⟨?_, fun x b => ?_⟩⟩
  · rw [encodeFn_eq_encFrom, encFrom_replicate_zero, encodeFn_eq_encFrom]
  · have h := hrun [] hr hne
    rw [List.append_nil, if_pos rfl] at h
    exact h
  · rw [hrun (x :: b) hr hne, encodeFn_eq_encFrom, if_neg (List.cons_ne_nil x b)]

/-! Bytes in memory from an address on. -/

/-- The bytes `xs` stand in memory from address `a` on. -/
def Memory.Holds (m : Memory) (a : Nat) (xs : List Byte) : Prop := m.readBytes a xs.length = xs

section Holds
variable {m m' : Memory} {a : Nat} {xs ys : List Byte} {x : Byte}

theorem Memory.holds_nil : m.Holds a [] := rfl

theorem Memory.holds_cons : m.Holds a (x :: xs) ↔ m.readByte a = x ∧ m.Holds (a + 1) xs := by
  simp [Memory.Holds, Memory.readBytes]

theorem Memory.holds_append : m.Holds a (xs ++ ys) ↔ m.Holds a xs ∧ m.Holds (a + xs.length) ys := by
  induction xs generalizing a with
  | nil => simp [Memory.holds_nil]
  | cons x xs ih =>
    rw [List.cons_append, Memory.holds_cons, Memory.holds_cons, ih, and_assoc, List.length_cons, Nat.add_assoc,
      Nat.add_comm 1]

theorem Memory.holds_singleton : m.Holds a [x] ↔ m.readByte a = x := by
  rw [Memory.holds_cons, and_iff_left Memory.holds_nil]

/-- A memory with the same bytes there. -/
theorem Memory.Holds.of_same (h : m.Holds a xs)
    (hsame : ∀ c, a ≤ c → c < a + xs.length → m'.readByte c = m.readByte c) : m'.Holds a xs := by
  induction xs generalizing a with
  | nil => exact Memory.holds_nil
  | cons x xs ih =>
    rw [List.length_cons] at hsame
    obtain ⟨hx, hxs⟩ := Memory.holds_cons.mp h
    have hhead : m'.readByte a = m.readByte a := hsame a (le_refl a) (by omega)
    exact Memory.holds_cons.mpr ⟨hhead.trans hx, ih hxs fun c hlo hhi => hsame c (by omega) (by omega)⟩

/-- A store elsewhere. -/
theorem Memory.Holds.of_storesOnly {b : Nat} (h : m.Holds a xs) (hst : m.storesOnly m' b x)
    (hb : b < a ∨ a + xs.length ≤ b) : m'.Holds a xs :=
  h.of_same fun c hlo hhi => (hst c).trans (if_neg (by omega))

end Holds

/-! Runs of the Engine that stay busy until their end. -/

/-- `n` Engine steps lead from `s` to `u`, and the Engine is busy before each of them. -/
def RunsBusy (n : Nat) (s u : State) : Prop :=
  engineRun n s = .next u ∧ ∀ k, k < n → ∃ w, engineRun k s = .next w ∧ w.blk.busy = true

theorem RunsBusy.one {s u : State} (hb : s.blk.fsm ≠ .idle) (h : engineStep s = .next u) : RunsBusy 1 s u := by
  refine ⟨(engineRun_one s).trans h, fun k hk => ⟨s, ?_, Block.busy_iff.mpr hb⟩⟩
  obtain rfl := Nat.lt_one_iff.mp hk
  rfl

theorem RunsBusy.trans {m n : Nat} {s t u : State} (h : RunsBusy m s t) (h' : RunsBusy n t u) :
    RunsBusy (m + n) s u := by
  obtain ⟨hm, hbusy⟩ := h
  obtain ⟨hn, hbusy'⟩ := h'
  have hrun (k : Nat) : engineRun (m + k) s = engineRun k t := by rw [engineRun_add, hm, andThen]
  refine ⟨(hrun n).trans hn, fun k hk => ?_⟩
  by_cases hkm : k < m
  · exact hbusy k hkm
  · obtain ⟨j, rfl⟩ := Nat.exists_eq_add_of_le (Nat.not_lt.mp hkm)
    rw [hrun]
    exact hbusy' j (by omega)

/-! Admission along an operation (20_memory.md R52). -/

/-- Every request of an operation of `cmd` on the latched operands is admitted: it lies in one of their regions. -/
def Block.AdmitsAll (cmd : Command) (b : Block) : Prop :=
  b.admits .read (srcRegion b.S b.L) ∧ b.admits .write (dstRegion cmd b.L b.D)

theorem Block.inv.request_admitted {b : Block} {cmd : Command} (h : b.inv) (hf : b.fsm.cmd = some cmd)
    (ha : b.AdmitsAll cmd) {kind : AccessKind} {a : Nat} (hr : b.request = some (kind, a)) :
    memAdmit b.port.denied kind a = true := by
  obtain ⟨hread, hwrite⟩ := ha
  cases kind with
  | read =>
    obtain ⟨rfl, hi, -⟩ := h.read_request hr
    exact hread _ (Nat.le_add_right _ _) (Nat.add_lt_add_left hi _)
  | write =>
    obtain ⟨cmd', hf', hlo, hhi⟩ := h.write_request hr
    obtain rfl : cmd = cmd' := Option.some.inj (hf.symm.trans hf')
    exact hwrite a hlo hhi

/-- A write request is outside the source (40_command.md R83). -/
theorem Block.inv.write_request_outside_source {b : Block} (h : b.inv) {a : Nat}
    (hr : b.request = some (.write, a)) : a < b.S.toNat ∨ b.S.toNat + b.L.toNat ≤ a := by
  obtain ⟨cmd, hf, hlo, hhi⟩ := h.write_request hr
  obtain ⟨-, -, -, hapart⟩ := (h.serves hf).operands
  by_contra hin
  have hmeets : (srcRegion b.S b.L).meets (dstRegion cmd b.L b.D) = true :=
    Region.meets_of_common (c := a) ⟨by simp only [srcRegion]; omega, by simp only [srcRegion]; omega⟩ ⟨hlo, hhi⟩
  exact absurd (hmeets.symm.trans hapart) (by decide)

/-! The state of an ENCODE between two of its steps. -/

/-- The Engine in focus encodes, since the accept that left `t`: the bytes `out` are finished; behind them stand the
open block's code cell, reserved and not yet written, and its literals `lits`; the input `xs` is still to be read. -/
structure State.Encoding (t w : State) (out lits xs : List Byte) : Prop where
  inv : w.inv
  kept : w.blk.D = t.blk.D ∧ w.blk.srcAddr = t.blk.srcAddr ∧ w.blk.srcLen = t.blk.srcLen ∧
    w.blk.dstAddr = t.blk.dstAddr
  admits : w.blk.AdmitsAll .encode
  input : w.mem.Holds (w.blk.S.toNat + w.blk.i.toNat) xs
  i : w.blk.i.toNat + xs.length = w.blk.L.toNat
  codep : w.blk.codep.toNat = out.length
  cur : w.blk.cur.toNat = out.length + 1 + lits.length
  code : w.blk.code.toNat = lits.length + 1
  finished : w.mem.Holds w.blk.D.toNat out
  literals : w.mem.Holds (w.blk.D.toNat + out.length + 1) lits
  frame : ∀ c, c < w.blk.D.toNat ∨ w.blk.D.toNat + w.blk.cur.toNat ≤ c → w.mem.readByte c = t.mem.readByte c

/-- An ENCODE has ended since the accept that left `t`, with the output `out` (41_encoder.md R104). -/
structure State.Encoded (t u : State) (out : List Byte) : Prop where
  idle : u.blk.fsm = .idle
  status : u.blk.statusWord = 0x00000002#32
  resultLen : u.blk.resultLen.toNat = out.length
  output : u.mem.Holds t.blk.D.toNat out
  frame : ∀ c, c < t.blk.D.toNat ∨ t.blk.D.toNat + out.length ≤ c → u.mem.readByte c = t.mem.readByte c
  srcAddr : u.blk.srcAddr = t.blk.srcAddr
  srcLen : u.blk.srcLen = t.blk.srcLen
  dstAddr : u.blk.dstAddr = t.blk.dstAddr

/-- Where the encoder goes on with the input `xs` still to be read (41_encoder.md R97). -/
def encPhase (xs : List Byte) : Fsm := if xs = [] then .encFinal else .encRead

section Encoding
variable {t w : State} {out lits xs : List Byte} {x : Byte}

/-- Input remains exactly while `i` is below L. -/
theorem State.Encoding.lt_iff (h : State.Encoding t w out lits xs) : w.blk.i.toNat < w.blk.L.toNat ↔ xs ≠ [] := by
  have hi := h.i
  rw [← List.length_pos_iff]
  omega

theorem State.Encoding.nextPhase (h : State.Encoding t w out lits xs) :
    (if w.blk.i.toNat < w.blk.L.toNat then Fsm.encRead else .encFinal) = encPhase xs := by
  rw [encPhase, if_congr h.lt_iff rfl rfl]
  exact ite_not _ _ _

/-- ENC_READ takes the first byte of the input that is left (41_encoder.md R98). -/
theorem State.Encoding.afterRead (h : State.Encoding t w out lits (x :: xs)) (hf : w.blk.fsm = .encRead) :
    ∃ w', RunsBusy 1 w w' ∧ State.Encoding t w' out lits xs ∧ w'.blk.byte = x ∧
      w'.blk.fsm = if x ≠ 0 then .encLit else .encFinZero := by
  have hr : w.blk.request = some (.read, w.blk.S.toNat + w.blk.i.toNat) := Block.request_of_encRead hf
  have hd := h.inv.blk.request_admitted (hf ▸ rfl) h.admits hr
  obtain ⟨w', hgo, hblk, -, hi, hmem, -⟩ := encReadTakesTheNextSourceByte w h.inv hf _ rfl hd
  obtain ⟨hx, hinput⟩ := Memory.holds_cons.mp h.input
  have hinv : w'.inv := engineStep_inv w h.inv w' hgo
  have hlen := h.i
  rw [List.length_cons] at hlen
  have hcount : w.blk.i.toNat + 1 + xs.length = w.blk.L.toNat := by omega
  have hrun : RunsBusy 1 w w' := .one (by simp [hf]) hgo
  obtain ⟨b, _, m, _⟩ := w'
  obtain rfl : m = w.mem := hmem
  obtain rfl : b = _ := hblk
  refine ⟨_, hrun, ⟨hinv, h.kept, h.admits, ?_, hi ▸ hcount, h.codep, h.cur, h.code, h.finished, h.literals, h.frame⟩,
    hx, hx ▸ rfl⟩
  exact hi ▸ hinput

/-- A store at one of the cells reserved, or at the next one. -/
theorem State.Encoding.frame_of_store (h : State.Encoding t w out lits xs) {m : Memory} {a : Nat}
    (hst : w.mem.storesOnly m a x) (ha : w.blk.D.toNat ≤ a ∧ a ≤ w.blk.D.toNat + w.blk.cur.toNat) (c : Nat)
    (hc : c < w.blk.D.toNat ∨ w.blk.D.toNat + (w.blk.cur.toNat + 1) ≤ c) : m.readByte c = t.mem.readByte c :=
  ((hst c).trans (if_neg (by omega))).trans (h.frame c (by omega))

/-- ENC_LIT adds the byte read to the open block (41_encoder.md R99). -/
theorem State.Encoding.afterLit (h : State.Encoding t w out lits xs) (hf : w.blk.fsm = .encLit) :
    ∃ w', RunsBusy 1 w w' ∧ State.Encoding t w' out (lits ++ [w.blk.byte]) xs ∧
      w'.blk.fsm = if lits.length = 253 then .encFinFull else encPhase xs := by
  have hr : w.blk.request = some (.write, w.blk.D.toNat + w.blk.cur.toNat) := Block.request_of_encLit hf
  have hd := h.inv.blk.request_admitted (hf ▸ rfl) h.admits hr
  have hsrc := h.inv.blk.write_request_outside_source hr
  obtain ⟨w', hgo, hblk, -, -, hcode, hcur, hst, -⟩ := encLitCopiesTheLiteral w h.inv hf _ rfl hd
  have hinv : w'.inv := engineStep_inv w h.inv w' hgo
  obtain ⟨hi, hc, hk⟩ := And.intro h.i (And.intro h.cur h.code)
  have hlast : w'.mem.readByte (w.blk.D.toNat + out.length + 1 + lits.length) = w.blk.byte :=
    (hst _).trans (if_pos (by omega))
  have hfull : w.blk.code + 1 = 255 ↔ lits.length = 253 := by bv_omega
  have hrun : RunsBusy 1 w w' := .one (by simp [hf]) hgo
  obtain ⟨b, _, m, _⟩ := w'
  obtain rfl : b = _ := hblk
  refine ⟨_, hrun, ⟨hinv, h.kept, h.admits, h.input.of_storesOnly hst (by omega), hi, h.codep, ?_, ?_,
    h.finished.of_storesOnly hst (by omega), ?_, ?_⟩, ?_⟩
  · rw [hcur, hc, List.length_append]; rfl
  · rw [hcode, hk, List.length_append]; rfl
  · exact Memory.holds_append.mpr ⟨h.literals.of_storesOnly hst (by omega), Memory.holds_singleton.mpr hlast⟩
  · rw [hcur]; exact h.frame_of_store hst (by omega)
  · simp only [hfull, h.nextPhase]

theorem State.Encoding.codeByte (h : State.Encoding t w out lits xs) :
    BitVec.ofNat 8 (lits.length + 1) = w.blk.code := by
  rw [← h.code, BitVec.ofNat_toNat, BitVec.setWidth_eq]

/-- The code written at the code pointer finishes the open block, and the next slot is reserved (41_encoder.md R100,
R101). -/
theorem State.Encoding.closeBlock (h : State.Encoding t w out lits xs) {w' : State} {f : Fsm} (hinv : w'.inv)
    (hr : w.blk.request = some (.write, w.blk.D.toNat + w.blk.codep.toNat))
    (hblk : w'.blk = { w.blk with code := 1, codep := w.blk.cur, cur := w.blk.cur + 1, fsm := f })
    (hcur : w'.blk.cur.toNat = w.blk.cur.toNat + 1)
    (hst : w.mem.storesOnly w'.mem (w.blk.D.toNat + w.blk.codep.toNat) w.blk.code) :
    State.Encoding t w' (out ++ codedBlock lits) [] xs := by
  have hsrc := h.inv.blk.write_request_outside_source hr
  obtain ⟨hi, hc, hp⟩ := And.intro h.i (And.intro h.cur h.codep)
  have hlen : (out ++ codedBlock lits).length = out.length + 1 + lits.length := length_append_codedBlock
  have hcode : w'.mem.readByte (w.blk.D.toNat + out.length) = BitVec.ofNat 8 (lits.length + 1) :=
    ((hst _).trans (if_pos (by omega))).trans h.codeByte.symm
  obtain ⟨b, _, m, _⟩ := w'
  obtain rfl : b = _ := hblk
  refine ⟨hinv, h.kept, h.admits, h.input.of_storesOnly hst (by omega), hi, hc.trans hlen.symm, ?_, rfl, ?_,
    Memory.holds_nil, ?_⟩
  · rw [hcur, hc, hlen]; rfl
  · exact Memory.holds_append.mpr ⟨h.finished.of_storesOnly hst (by omega),
      Memory.holds_cons.mpr ⟨hcode, h.literals.of_storesOnly hst (by omega)⟩⟩
  · rw [hcur]; exact h.frame_of_store hst (by omega)

/-- ENC_FIN_ZERO finishes the open block (41_encoder.md R100). -/
theorem State.Encoding.afterFinZero (h : State.Encoding t w out lits xs) (hf : w.blk.fsm = .encFinZero) :
    ∃ w', RunsBusy 1 w w' ∧ State.Encoding t w' (out ++ codedBlock lits) [] xs ∧ w'.blk.fsm = encPhase xs := by
  have hr : w.blk.request = some (.write, w.blk.D.toNat + w.blk.codep.toNat) := Block.request_of_encFinZero hf
  have hd := h.inv.blk.request_admitted (hf ▸ rfl) h.admits hr
  obtain ⟨w', hgo, hblk, -, -, hcur, hst, -⟩ := encFinZeroClosesTheBlock w h.inv hf _ rfl hd
  exact ⟨w', .one (by simp [hf]) hgo, h.closeBlock (engineStep_inv w h.inv w' hgo) hr hblk hcur hst,
    by rw [hblk]; exact h.nextPhase⟩

/-- ENC_FIN_FULL finishes the full block and opens the next one while input remains (41_encoder.md R101). -/
theorem State.Encoding.afterFinFull (h : State.Encoding t w out lits xs) (hf : w.blk.fsm = .encFinFull)
    (hxs : xs ≠ []) :
    ∃ w', RunsBusy 1 w w' ∧ State.Encoding t w' (out ++ codedBlock lits) [] xs ∧ w'.blk.fsm = encPhase xs := by
  have hr : w.blk.request = some (.write, w.blk.D.toNat + w.blk.codep.toNat) := Block.request_of_encFinFull hf
  have hd := h.inv.blk.request_admitted (hf ▸ rfl) h.admits hr
  obtain ⟨w', hgo, hfull, hmore, -, -, hst, -⟩ := encFinFullReservesOnlyIfInputRemains w h.inv hf _ rfl hd
  obtain ⟨hblk, hcur⟩ := hmore (h.lt_iff.mpr hxs)
  exact ⟨w', .one (by simp [hf]) hgo, h.closeBlock (engineStep_inv w h.inv w' hgo) hr hblk hcur (hfull ▸ hst),
    by rw [hblk, encPhase, if_neg hxs]⟩

/-- `u` is the end of an ENCODE that had in `w` its last code byte and the delimiter still to write (41_encoder.md R102
to R104). -/
structure State.EndsEncode (w u : State) : Prop where
  idle : u.blk.fsm = .idle
  status : u.blk.statusWord = 0x00000002#32
  resultLen : u.blk.resultLen.toNat = w.blk.cur.toNat + 1
  parameters : u.blk.srcAddr = w.blk.srcAddr ∧ u.blk.srcLen = w.blk.srcLen ∧ u.blk.dstAddr = w.blk.dstAddr
  mem : ∀ c, u.mem.readByte c =
    if c = w.blk.D.toNat + w.blk.cur.toNat then Config.delimiter
    else if c = w.blk.D.toNat + w.blk.codep.toNat then w.blk.code else w.mem.readByte c

/-- ENC_FINAL, ENC_DELIM and COMPLETE: the code at the code pointer, the delimiter at the cursor, and the report. -/
theorem encFinal_run (h : w.inv) (hf : w.blk.fsm = .encFinal) (ha : w.blk.AdmitsAll .encode) :
    ∃ u, RunsBusy 3 w u ∧ w.EndsEncode u := by
  have hr : w.blk.request = some (.write, w.blk.D.toNat + w.blk.codep.toNat) := Block.request_of_encFinal hf
  obtain ⟨w₁, hgo₁, hblk₁, -, -, -, hst₁, -⟩ :=
    encFinalWritesTheClosingCode w h hf _ rfl (h.blk.request_admitted (hf ▸ rfl) ha hr)
  have hinv₁ : w₁.inv := engineStep_inv w h w₁ hgo₁
  have hf₁ : w₁.blk.fsm = .encDelim := by rw [hblk₁]
  have hr₁ : w₁.blk.request = some (.write, w₁.blk.D.toNat + w₁.blk.cur.toNat) := Block.request_of_encDelim hf₁
  have ha₁ : w₁.blk.AdmitsAll .encode := by rw [hblk₁]; exact ha
  obtain ⟨w₂, hgo₂, hblk₂, hcur₂, hst₂, -⟩ :=
    encDelimAppendsTheDelimiter w₁ hinv₁ hf₁ _ rfl (hinv₁.blk.request_admitted (hf₁ ▸ rfl) ha₁ hr₁)
  have hf₂ : w₂.blk.fsm = .complete := by rw [hblk₂]
  obtain ⟨u, hgo₃, hu, hstatus, -⟩ := completeReportsTheCursor w₂ hf₂
  have hrun : RunsBusy (1 + 1 + 1) w u :=
    ((RunsBusy.one (by simp [hf]) hgo₁).trans (.one (by simp [hf₁]) hgo₂)).trans (.one (by simp [hf₂]) hgo₃)
  refine ⟨u, hrun, by rw [hu], hstatus, ?_, ?_, fun c => ?_⟩
  · rw [hu]; exact hcur₂.trans (by rw [hblk₁])
  · rw [hu, hblk₂, hblk₁]; exact ⟨rfl, rfl, rfl⟩
  · rw [hu]; exact (hst₂ c).trans (by rw [hst₁ c, hblk₁]; rfl)

/-- A full block at the end of the input: its code is written, and the code 01 that ENC_FINAL writes at the cursor is
overwritten by the delimiter (41_encoder.md R101 to R103). -/
theorem encFinFull_run (h : w.inv) (hf : w.blk.fsm = .encFinFull) (ha : w.blk.AdmitsAll .encode)
    (hend : w.blk.i.toNat = w.blk.L.toNat) : ∃ u, RunsBusy 4 w u ∧ w.EndsEncode u := by
  have hr : w.blk.request = some (.write, w.blk.D.toNat + w.blk.codep.toNat) := Block.request_of_encFinFull hf
  obtain ⟨w₁, hgo₁, hfull, -, hlast, -, hst₁, -⟩ :=
    encFinFullReservesOnlyIfInputRemains w h hf _ rfl (h.blk.request_admitted (hf ▸ rfl) ha hr)
  have hblk₁ := hlast hend
  obtain ⟨u, hrun, hidle, hstatus, hlen, hparams, hmem⟩ :=
    encFinal_run (engineStep_inv w h w₁ hgo₁) (by rw [hblk₁]) (by rw [hblk₁]; exact ha)
  rw [hblk₁] at hlen hparams
  refine ⟨u, (RunsBusy.one (by simp [hf]) hgo₁).trans hrun, hidle, hstatus, hlen, hparams, fun c => ?_⟩
  rw [hmem c, hst₁ c, hblk₁, hfull]
  by_cases hc : c = w.blk.D.toNat + w.blk.cur.toNat
  · rw [if_pos hc, if_pos hc]
  · rw [if_neg hc, if_neg hc, if_neg hc]

/-- The end of an ENCODE whose input is used up: the open block is finished, and the delimiter stands behind it. -/
theorem State.Encoding.encoded (h : State.Encoding t w out lits []) {u : State} (hu : w.EndsEncode u) :
    State.Encoded t u (out ++ encFrom lits []) := by
  have hcur := h.cur
  have hcodep := h.codep
  obtain ⟨hsa, hsl, hda⟩ := hu.parameters
  obtain ⟨hD, hsa', hsl', hda'⟩ := h.kept
  have hsame (c : Nat) (hne : c ≠ w.blk.D.toNat + w.blk.cur.toNat) (hne' : c ≠ w.blk.D.toNat + w.blk.codep.toNat) :
      u.mem.readByte c = w.mem.readByte c := by rw [hu.mem, if_neg hne, if_neg hne']
  have hcode : u.mem.readByte (w.blk.D.toNat + out.length) = BitVec.ofNat 8 (lits.length + 1) := by
    rw [hu.mem, if_neg (by omega), if_pos (by omega), h.codeByte]
  have hdelim : u.mem.readByte (w.blk.D.toNat + out.length + (codedBlock lits).length) = Config.delimiter := by
    rw [hu.mem, if_pos (by rw [length_codedBlock]; omega)]
  have hlen : (out ++ encFrom lits []).length = w.blk.cur.toNat + 1 := by
    rw [encFrom_nil, List.length_append, List.length_append, length_codedBlock, List.length_singleton]
    omega
  rw [encFrom_nil] at hlen ⊢
  refine ⟨hu.idle, hu.status, hu.resultLen.trans hlen.symm, ?_, fun c hc => ?_, hsa.trans hsa',
    hsl.trans hsl', hda.trans hda'⟩
  · rw [← hD]
    refine Memory.holds_append.mpr ⟨h.finished.of_same fun c hlo hhi => hsame c (by omega) (by omega),
      Memory.holds_append.mpr ⟨Memory.holds_cons.mpr ⟨hcode, ?_⟩, Memory.holds_singleton.mpr hdelim⟩⟩
    exact h.literals.of_same fun c hlo hhi => hsame c (by omega) (by omega)
  · rw [hlen, ← hD] at hc
    exact (hsame c (by omega) (by omega)).trans (h.frame c (by omega))

/-- ENC_READ and ENC_LIT take a non-zero byte into the open block (41_encoder.md R98, R99). -/
theorem State.Encoding.afterReadLit (h : State.Encoding t w out lits (x :: xs)) (hf : w.blk.fsm = .encRead)
    (hx : x ≠ 0) :
    ∃ w', RunsBusy 2 w w' ∧ State.Encoding t w' out (lits ++ [x]) xs ∧
      w'.blk.fsm = if lits.length = 253 then .encFinFull else encPhase xs := by
  obtain ⟨w₁, hrun₁, h₁, rfl, hf₁⟩ := h.afterRead hf
  obtain ⟨w₂, hrun₂, h₂, hf₂⟩ := h₁.afterLit (hf₁.trans (if_pos hx))
  exact ⟨w₂, hrun₁.trans hrun₂, h₂, hf₂⟩

/-- The rest of an ENCODE: two steps per byte, one per full block, and the three last (41_encoder.md R104, R109). -/
theorem State.Encoding.run (h : State.Encoding t w out lits xs) (hf : w.blk.fsm = encPhase xs) :
    ∃ u, RunsBusy (2 * xs.length + fullBlocksFrom true (lits.length + 1) xs + 3) w u ∧
      State.Encoded t u (out ++ encFrom lits xs) := by
  induction lits, xs using encFrom_induction generalizing w out with
  | nil lits =>
    obtain ⟨u, hrun, hu⟩ := encFinal_run h.inv hf h.admits
    exact ⟨u, hrun, h.encoded hu⟩
  | zero lits xs ih =>
    obtain ⟨w₁, hrun₁, h₁, -, hf₁⟩ := h.afterRead hf
    obtain ⟨w₂, hrun₂, h₂, hf₂⟩ := h₁.afterFinZero hf₁
    obtain ⟨u, hrun, hu⟩ := ih h₂ hf₂
    rw [List.append_assoc, ← encFrom_zero] at hu
    refine ⟨u, ?_, hu⟩
    convert (hrun₁.trans hrun₂).trans hrun using 1
    rw [fullBlocksFrom_zero]
    grind
  | full_end lits x hx hl =>
    obtain ⟨w₁, hrun₁, h₁, hf₁⟩ := h.afterReadLit hf hx
    obtain ⟨u, hrun, hu⟩ := encFinFull_run h₁.inv (hf₁.trans (if_pos hl)) h₁.admits h₁.i
    refine ⟨u, ?_, ?_⟩
    · rw [hl, fullBlocksFrom_full _ _ hx]
      exact hrun₁.trans hrun
    · rw [encFrom_full_end hx hl]
      exact encFrom_nil ▸ h₁.encoded hu
  | full_more lits x xs hx hl hxs ih =>
    obtain ⟨w₁, hrun₁, h₁, hf₁⟩ := h.afterReadLit hf hx
    obtain ⟨w₂, hrun₂, h₂, hf₂⟩ := h₁.afterFinFull (hf₁.trans (if_pos hl)) hxs
    obtain ⟨u, hrun, hu⟩ := ih h₂ hf₂
    rw [List.append_assoc, ← encFrom_full_more hx hl hxs] at hu
    refine ⟨u, ?_, hu⟩
    convert (hrun₁.trans hrun₂).trans hrun using 1
    rw [hl, fullBlocksFrom_full_more _ _ hx hxs]
    grind
  | literal lits x xs hx hl ih =>
    obtain ⟨w₁, hrun₁, h₁, hf₁⟩ := h.afterReadLit hf hx
    obtain ⟨u, hrun, hu⟩ := ih h₁ (hf₁.trans (if_neg hl))
    rw [← encFrom_literal hx hl] at hu
    refine ⟨u, ?_, hu⟩
    convert hrun₁.trans hrun using 1
    rw [fullBlocksFrom_literal _ _ hx (by omega)]
    grind

end Encoding

/-- Settles O51: the accept starts the operation before the first block, and it runs to its end block by block. -/
theorem encodeWritesEncodeFnOfTheSource : Obligations.EncodeWritesEncodeFnOfTheSource := by
  rintro s b h hf hc hread hwrite rfl
  obtain ⟨t, hexec, -, hblk, -, hmem, -⟩ := acceptedEncodeLatchesAndStarts s hf hc
  have hinv : t.inv := exec_inv .encode s h t hexec
  have hstart : State.Encoding t t [] [] (s.mem.readBytes s.blk.srcAddr.toNat s.blk.srcLen.toNat) := by
    refine ⟨hinv, ⟨rfl, rfl, rfl, rfl⟩, ?_, ?_, ?_, ?_, ?_, ?_, Memory.holds_nil, Memory.holds_nil, fun _ _ => rfl⟩
    · rw [hblk]; exact ⟨hread, hwrite⟩
    · rw [hblk, hmem]; simp [Memory.Holds]
    · rw [hblk]; simp
    · rw [hblk]; rfl
    · rw [hblk]; rfl
    · rw [hblk]; rfl
  have hphase : t.blk.fsm = encPhase (s.mem.readBytes s.blk.srcAddr.toNat s.blk.srcLen.toNat) := by
    rw [← hstart.nextPhase, hblk]
    exact (ite_zero_lt_word _ _ _).symm
  obtain ⟨u, ⟨hrun, hbusy⟩, hu⟩ := hstart.run hphase
  rw [List.nil_append, ← encodeFn_eq_encFrom] at hu
  have hD : t.blk.D = s.blk.dstAddr := by rw [hblk]
  refine ⟨t, u, hexec, hrun, hu.idle, hu.status, hu.resultLen, hD ▸ hu.output, fun c hc => ?_, ?_, ?_, ?_, hbusy⟩
  · rw [hu.frame c (hD ▸ hc), hmem]
  · rw [hu.srcAddr, hblk]
  · rw [hu.srcLen, hblk]
  · rw [hu.dstAddr, hblk]

end Sys2Proof.Machine

/-! PROOFS of 42_decoder.md. The steps of a DECODE (R118 to R121), `decode_fn` block by block with its bounds, its stops
and the round trip (R124 to R127), and the run of a DECODE (R122, R130). -/

namespace Sys2Proof.Machine

/-! The memory request of each decoder state (40_command.md R75). -/

section DecRequests
variable {b : Block}

theorem Block.request_of_decCode (hf : b.fsm = .decCode) : b.request = some (.read, b.S.toNat + b.i.toNat) := by
  rw [Block.request, hf]

theorem Block.request_of_decZero (hf : b.fsm = .decZero) : b.request = some (.write, b.D.toNat + b.cur.toNat) := by
  rw [Block.request, hf]

theorem Block.request_of_decRead (hf : b.fsm = .decRead) : b.request = some (.read, b.S.toNat + b.i.toNat) := by
  rw [Block.request, hf]

theorem Block.request_of_decWrite (hf : b.fsm = .decWrite) : b.request = some (.write, b.D.toNat + b.cur.toNat) := by
  rw [Block.request, hf]

end DecRequests

/-! The steps of a DECODE (42_decoder.md R118 to R121). -/

theorem byte_sub_one_eq_zero_iff {c : Byte} : c - 1 = 0 ↔ c = 1 := sub_eq_zero

theorem toNat_byte_sub_one {c : Byte} (hc : c ≠ 0) : (c - 1).toNat = c.toNat - 1 := by bv_omega

theorem bne_fullCode (c : Byte) : (c != Config.fullCode) = decide (c ≠ 255) := by
  rw [Bool.eq_iff_iff, bne_iff_ne, decide_eq_true_iff, Config.fullCode]

/-- `dec_next` (42_decoder.md R117) reads `i`, L and `block`. -/
theorem Block.toDecNext_eq (b : Block) :
    b.toDecNext = { b with
      fsm := if b.i.toNat < b.L.toNat then (if b.block = 0 then .decCode else .decRead) else .complete } := rfl

/-- DEC_CODE on a code byte that is not 0 (42_decoder.md R118). -/
theorem Block.takeCode_of_ne {c : Byte} (hc : c ≠ 0) (b : Block) :
    b.takeCode c = { b with
      block := c - 1, zpend := decide (c ≠ 255)
      fsm := if b.zpend then .decZero
        else if b.i.toNat < b.L.toNat then (if c = 1 then .decCode else .decRead) else .complete } := by
  rw [← bne_fullCode]
  cases hz : b.zpend with
  | true => rw [Block.takeCode_pending hc hz, if_pos rfl]
  | false =>
    rw [Block.takeCode_none_pending hc hz, Block.toDecNext_eq]
    simp only [byte_sub_one_eq_zero_iff]
    rfl

/-- Settles O26: by whether the code byte is 0. -/
theorem decCodeReadsACodeByte : Obligations.DecCodeReadsACodeByte := by
  rintro s h hf a c rfl rfl hd
  obtain ⟨-, -, -, hcode, -⟩ := h.blk
  obtain ⟨hlt, hblock, -⟩ := hcode hf
  have hfit : s.blk.i.toNat + 1 < 2 ^ 32 := by omega
  have hi : (s.blk.i + 1).toNat = s.blk.i.toNat + 1 := BitVec.toNat_add_of_lt hfit
  generalize hc : s.mem.readByte (s.blk.S.toNat + s.blk.i.toNat) = c
  obtain ⟨t, hgo, hblk, hmem, haround, hfaults⟩ := engineStep_of_memRead
    (({ s.blk with i := s.blk.i + 1 } : Block).takeCode c)
    h (engineStep_decCode hf) (Block.request_of_decCode hf) hd fun s' hb => by rw [hb, fitWord_succ hfit, hc]
  refine ⟨t, hgo, ?_, ?_, hi, ?_, hmem, haround, hfaults⟩
  · rintro rfl
    exact hblk.trans (Block.takeCode_zero _)
  · intro hne
    rw [hblk, Block.takeCode_of_ne hne, ← hi]
  · rw [hblk]
    by_cases hne : c = 0
    · rw [hne, Block.takeCode_zero]
      exact hblock ▸ (by decide : (0 : Byte).toNat ≤ 254)
    · rw [Block.takeCode_of_ne hne]
      exact toNat_sub_one_le hne

/-- Settles O27: the zero is inside the destination, and `cur` still counts. -/
theorem decZeroWritesTheImpliedZero : Obligations.DecZeroWritesTheImpliedZero := by
  rintro s h hf a rfl hd
  have hfit : s.blk.cur.toNat + 1 < 2 ^ 32 := h.blk.cur_succ_lt (hf ▸ rfl : s.blk.fsm.cmd = some .decode)
  obtain ⟨t, hgo, hblk, hstores, haround, hfaults⟩ := engineStep_of_memWrite
    ({ s.blk with cur := s.blk.cur + 1 } : Block).toDecNext
    h (engineStep_decZero hf) (Block.request_of_decZero hf) hd fun s' hb => by rw [hb, fitWord_succ hfit]
  exact ⟨t, hgo, hblk, by rw [hblk]; exact BitVec.toNat_add_of_lt hfit, hstores, haround, hfaults⟩

/-- Settles O28: an admitted read of the next literal. -/
theorem decReadTakesTheNextLiteral : Obligations.DecReadTakesTheNextLiteral := by
  rintro s h hf a rfl hd
  obtain ⟨-, -, -, -, -, hread, -⟩ := h.blk
  obtain ⟨hlt, h1, -⟩ := hread hf
  have hfit : s.blk.i.toNat + 1 < 2 ^ 32 := by omega
  obtain ⟨t, hgo, hblk, hmem, haround, hfaults⟩ := engineStep_of_memRead
    { s.blk with v := s.mem.readByte (s.blk.S.toNat + s.blk.i.toNat), i := s.blk.i + 1, fsm := .decWrite }
    h (engineStep_decRead hf) (Block.request_of_decRead hf) hd fun s' hb => by rw [hb, fitWord_succ hfit]
  exact ⟨t, hgo, hblk, hlt, h1, BitVec.toNat_add_of_lt hfit, hmem, haround, hfaults⟩

/-- Settles O29: `v` is stored as it is, and `block` is above 0, so both counters still move. -/
theorem decWriteCopiesTheLiteral : Obligations.DecWriteCopiesTheLiteral := by
  rintro s h hf a rfl hd
  obtain ⟨-, -, -, -, -, -, hwrite⟩ := h.blk
  obtain ⟨-, h1, -⟩ := hwrite hf
  have hne : s.blk.block ≠ 0 := fun e => by rw [e] at h1; exact absurd h1 (by decide)
  have hfit : s.blk.cur.toNat + 1 < 2 ^ 32 := h.blk.cur_succ_lt (hf ▸ rfl : s.blk.fsm.cmd = some .decode)
  obtain ⟨t, hgo, hblk, hstores, haround, hfaults⟩ := engineStep_of_memWrite
    ({ s.blk with cur := s.blk.cur + 1, block := s.blk.block - 1 } : Block).toDecNext
    h (engineStep_decWrite hf) (Block.request_of_decWrite hf) hd fun s' hb => by
      rw [hb, fitWord_succ hfit, if_neg hne]
  refine ⟨t, hgo, ?_, ?_, ?_, hstores, haround, hfaults⟩
  · rw [hblk, Block.toDecNext_eq]
    simp only [byte_sub_one_eq_zero_iff]
  · rw [hblk]; exact BitVec.toNat_add_of_lt hfit
  · rw [hblk, Block.toDecNext_block, toNat_byte_sub_one hne]
    omega

/-! `decode_fn`'s loop and the count of its reads, case by case (42_decoder.md R130, R125). -/

/-- The zero owed before the next block (42_decoder.md R117). -/
def impliedZero (z : Bool) : List Byte := if z then [0x00#8] else []

@[simp] theorem impliedZero_true : impliedZero true = [0x00#8] := rfl
@[simp] theorem impliedZero_false : impliedZero false = [] := rfl

section Loops
variable (e : List Byte) (n : Nat) (z : Bool) (x : Byte) {c : Byte}

@[simp] theorem decLoop_nil : decLoop [] n z = [] := by rw [decLoop]

@[simp] theorem decLoop_zero : decLoop (0x00#8 :: e) 0 z = [] := if_pos rfl

theorem decLoop_code (hc : c ≠ 0) :
    decLoop (c :: e) 0 z = impliedZero z ++ decLoop e (c.toNat - 1) (c != Config.fullCode) := by
  rw [decLoop, if_neg hc]
  rfl

@[simp] theorem decLoop_literal : decLoop (x :: e) (n + 1) z = x :: decLoop e n z := by rw [decLoop]

@[simp] theorem decReads_nil : decReads [] n = 0 := by rw [decReads]

@[simp] theorem decReads_zero : decReads (0x00#8 :: e) 0 = 1 := if_pos rfl

theorem decReads_code (hc : c ≠ 0) : decReads (c :: e) 0 = 1 + decReads e (c.toNat - 1) := by
  rw [decReads, if_neg hc]

@[simp] theorem decReads_literal : decReads (x :: e) (n + 1) = 1 + decReads e n := by rw [decReads]

end Loops

/-- Induction along `decLoop`: the end of the input, a zero code byte, another code byte, and a literal. -/
theorem decLoop_induction {P : List Byte → Nat → Bool → Prop} (nil : ∀ n z, P [] n z)
    (zero : ∀ e z, P (0x00#8 :: e) 0 z)
    (code : ∀ c e z, c ≠ 0 → P e (c.toNat - 1) (c != Config.fullCode) → P (c :: e) 0 z)
    (literal : ∀ x e n z, P e n z → P (x :: e) (n + 1) z) (e : List Byte) (n : Nat) (z : Bool) : P e n z := by
  induction e generalizing n z with
  | nil => exact nil n z
  | cons x e ih =>
    cases n with
    | zero =>
      by_cases hx : x = 0
      · subst hx; exact zero e z
      · exact code x e z hx (ih _ _)
    | succ n => exact literal x e n z (ih n z)

/-! Bounds and stops (42_decoder.md R124 to R126). -/

/-- The flag of `decLoop_induction` plays no part in the count. -/
theorem decReads_le_length (e : List Byte) (n : Nat) : decReads e n ≤ e.length := by
  induction e, n, false using decLoop_induction with
  | nil n z => simp
  | zero e z => simp
  | code c e z hc ih => rw [decReads_code e hc, List.length_cons]; omega
  | literal x e n z ih => rw [decReads_literal, List.length_cons]; omega

/-- Each byte read gives at most one byte. -/
theorem length_decLoop_le (e : List Byte) (n : Nat) (z : Bool) : (decLoop e n z).length ≤ e.length := by
  induction e, n, z using decLoop_induction with
  | nil n z => simp
  | zero e z => simp
  | code c e z hc ih =>
    have hz : (impliedZero z).length ≤ 1 := by cases z <;> simp
    rw [decLoop_code e z hc, List.length_append, List.length_cons]
    omega
  | literal x e n z ih => rw [decLoop_literal, List.length_cons, List.length_cons]; omega

/-- The first code byte gives nothing of its own. -/
theorem decodeFn_code {c : Byte} (e : List Byte) (hc : c ≠ 0) :
    decodeFn (c :: e) = decLoop e (c.toNat - 1) (c != Config.fullCode) := decLoop_code e false hc

theorem length_decodeFn_le (e : List Byte) : (decodeFn e).length ≤ e.length - 1 := by
  cases e with
  | nil => simp [decodeFn]
  | cons c e =>
    by_cases hc : c = 0
    · simp [hc, decodeFn]
    · rw [decodeFn_code e hc]; exact length_decLoop_le e _ _

/-- Literals are copied, whatever their values. -/
theorem decLoop_append (lits e : List Byte) (n : Nat) (z : Bool) :
    decLoop (lits ++ e) (lits.length + n) z = lits ++ decLoop e n z := by
  induction lits with
  | nil => rw [List.length_nil, Nat.zero_add, List.nil_append, List.nil_append]
  | cons x lits ih =>
    rw [List.length_cons, Nat.add_right_comm, List.cons_append, decLoop_literal, ih, List.cons_append]

/-- Literals cut short by the end of the input. -/
theorem decLoop_of_length_le {lits : List Byte} {n : Nat} (h : lits.length ≤ n) (z : Bool) :
    decLoop lits n z = lits := by
  obtain ⟨k, rfl⟩ := Nat.exists_eq_add_of_le h
  simpa using decLoop_append lits [] k z

/-- Settles O57: along `decLoop`, and by the count of literals in the code byte. -/
theorem decodingStopsAndBounds : Obligations.DecodingStopsAndBounds := by
  have hne {c : Byte} {n : Nat} (h : n < c.toNat) : c ≠ 0 := by bv_omega
  refine ⟨fun e => ⟨decReads_le_length e 0, length_decodeFn_le e⟩, rfl, fun e => decLoop_zero e false, ?_, ?_⟩
  · intro c lits h
    rw [decodeFn_code lits (hne h)]
    exact decLoop_of_length_le (Nat.le_sub_one_of_lt h) _
  · intro c lits e h
    rw [List.cons_append, decodeFn_code _ (hne (Nat.lt_of_succ_le h.le)), ← h, Nat.add_sub_cancel]
    simpa using decLoop_append lits (0 :: e) 0 _

/-! The round trip (42_decoder.md R127). -/

/-- The bytes `code` end in a delimiter, and from a code byte on they decode to `out`, whether or not the delimiter is
there and whatever follows it. -/
def DecodesTo (code out : List Byte) : Prop :=
  ∃ body, code = body ++ [Config.delimiter] ∧
    ∀ rest, (∀ z, decLoop rest 0 z = []) → ∀ z, decLoop (body ++ rest) 0 z = impliedZero z ++ out

/-- A block of at most 254 literals: they are copied, and a zero is owed unless the block is full. -/
theorem decLoop_codedBlock {lits : List Byte} (hl : lits.length ≤ 254) (e : List Byte) (z : Bool) :
    decLoop (codedBlock lits ++ e) 0 z =
      impliedZero z ++ (lits ++ decLoop e 0 (decide (lits.length ≠ 254))) := by
  have hc : BitVec.ofNat 8 (lits.length + 1) ≠ 0 := by bv_omega
  have hcount : (BitVec.ofNat 8 (lits.length + 1)).toNat - 1 = lits.length := by bv_omega
  have hfull : (BitVec.ofNat 8 (lits.length + 1) != Config.fullCode) = decide (lits.length ≠ 254) := by
    rw [bne_fullCode, decide_eq_decide]
    bv_omega
  rw [codedBlock, List.cons_append, decLoop_code _ z hc, hcount, hfull]
  exact congrArg (impliedZero z ++ ·) (decLoop_append lits e 0 _)

section RoundTrip
variable {lits code out : List Byte}

theorem decodesTo_last_block (hl : lits.length ≤ 254) : DecodesTo (codedBlock lits ++ [Config.delimiter]) lits :=
  ⟨codedBlock lits, rfl, fun rest hrest z => by rw [decLoop_codedBlock hl, hrest, List.append_nil]⟩

/-- A block and the zero it owes if it is not full, before more blocks. -/
theorem DecodesTo.codedBlock_append (h : DecodesTo code out) (hl : lits.length ≤ 254) :
    DecodesTo (codedBlock lits ++ code) (lits ++ (impliedZero (decide (lits.length ≠ 254)) ++ out)) := by
  obtain ⟨body, rfl, hbody⟩ := h
  refine ⟨codedBlock lits ++ body, (List.append_assoc _ _ _).symm, fun rest hrest z => ?_⟩
  rw [List.append_assoc, decLoop_codedBlock hl, hbody rest hrest]

theorem decodesTo_encFrom (xs : List Byte) (hlits : lits.length ≤ 253) : DecodesTo (encFrom lits xs) (lits ++ xs) := by
  induction lits, xs using encFrom_induction with
  | nil lits =>
    rw [encFrom_nil, List.append_nil]
    exact decodesTo_last_block (by omega)
  | zero lits xs ih =>
    have h := (ih (Nat.zero_le _)).codedBlock_append (lits := lits) (by omega)
    rw [decide_eq_true (by omega : lits.length ≠ 254)] at h
    rw [encFrom_zero]
    exact h
  | full_end lits x hx hl =>
    rw [encFrom_full_end hx hl]
    exact decodesTo_last_block (by simp [hl])
  | full_more lits x xs hx hl hxs ih =>
    have hfull : (lits ++ [x]).length = 254 := by simp [hl]
    have h := (ih (Nat.zero_le _)).codedBlock_append hfull.le
    rw [decide_eq_false (not_not.mpr hfull), List.append_assoc] at h
    rw [encFrom_full_more hx hl hxs]
    exact h
  | literal lits x xs hx hl ih =>
    have h := ih (by grind)
    rw [List.append_assoc] at h
    rw [encFrom_literal hx hl]
    exact h

end RoundTrip

/-- Settles O53: along the blocks of `encFrom`, and the alternative encoding by its two blocks. -/
theorem decodingAnEncodingGivesTheBufferBack : Obligations.DecodingAnEncodingGivesTheBufferBack := by
  refine ⟨fun b rest => ?_, fun b hb hne => ⟨?_, ?_⟩⟩
  · obtain ⟨body, hcode, hbody⟩ := decodesTo_encFrom (lits := []) b (Nat.zero_le _)
    have hdelim (r : List Byte) : decodeFn (body ++ Config.delimiter :: r) = b := hbody _ (decLoop_zero r) false
    rw [encodeFn_eq_encFrom, hcode, List.dropLast_concat, List.append_assoc]
    refine ⟨hdelim [], ?_, hdelim rest⟩
    exact (congrArg decodeFn (List.append_nil body).symm).trans (hbody [] (decLoop_nil 0) false)
  · have hlast : decLoop [1, 0] 0 false = [] := by decide
    rw [← codedBlock_of_full hb]
    refine (decLoop_codedBlock hb.le _ false).trans ?_
    rw [decide_eq_false (not_not.mpr hb), hlast, List.append_nil, impliedZero_false, List.nil_append]
  · obtain ⟨-, -, hedge⟩ := encodingEdgeCases
    rw [(hedge b hb hne).1]
    exact fun h => absurd (congrArg List.length h) (by simp)

/-! The state of a DECODE between two of its steps. -/

/-- The Engine in focus decodes, since the accept that left `t`: the bytes `out` are written; of the input, `e` is still
to be read, with `n` literals of the open block to copy; `z` says whether a zero is owed before the next block. -/
structure State.Decoding (t w : State) (out e : List Byte) (n : Nat) (z : Bool) : Prop where
  inv : w.inv
  kept : w.blk.D = t.blk.D ∧ w.blk.srcAddr = t.blk.srcAddr ∧ w.blk.srcLen = t.blk.srcLen ∧
    w.blk.dstAddr = t.blk.dstAddr
  admits : w.blk.AdmitsAll .decode
  input : w.mem.Holds (w.blk.S.toNat + w.blk.i.toNat) e
  i : w.blk.i.toNat + e.length = w.blk.L.toNat
  block : w.blk.block.toNat = n
  zpend : w.blk.zpend = z
  cur : w.blk.cur.toNat = out.length
  written : w.mem.Holds w.blk.D.toNat out
  frame : ∀ c, c < w.blk.D.toNat ∨ w.blk.D.toNat + out.length ≤ c → w.mem.readByte c = t.mem.readByte c

/-- A DECODE ends as an ENCODE does, with its own output (40_command.md R86, 42_decoder.md R122). -/
abbrev State.Decoded (t u : State) (out : List Byte) : Prop := State.Encoded t u out

/-- Where the decoder goes on with the input `e` still to be read and `n` literals to copy (42_decoder.md R117). -/
def decPhase (e : List Byte) (n : Nat) : Fsm := if e = [] then .complete else if n = 0 then .decCode else .decRead

section Decoding
variable {t w : State} {out e : List Byte} {n : Nat} {z : Bool} {x c : Byte}

theorem State.Decoding.nextPhase (h : State.Decoding t w out e n z) :
    (if w.blk.i.toNat < w.blk.L.toNat then (if w.blk.block = 0 then Fsm.decCode else .decRead) else .complete) =
      decPhase e n := by
  have hmore : w.blk.i.toNat < w.blk.L.toNat ↔ e ≠ [] := by
    rw [← List.length_pos_iff, ← h.i]
    omega
  have hblock : w.blk.block = 0 ↔ n = 0 := by rw [← h.block]; bv_omega
  rw [decPhase, if_congr hmore (if_congr hblock rfl rfl) rfl]
  exact ite_not _ _ _

/-- COMPLETE reports the bytes written, whether or not input is left (42_decoder.md R122). -/
theorem State.Decoding.finish (h : State.Decoding t w out e n z) (hf : w.blk.fsm = .complete) :
    ∃ u, RunsBusy 1 w u ∧ State.Decoded t u out := by
  obtain ⟨u, hgo, rfl, hstatus, -⟩ := completeReportsTheCursor w hf
  obtain ⟨hD, hsa, hsl, hda⟩ := h.kept
  exact ⟨_, .one (by simp [hf]) hgo, rfl, hstatus, h.cur, hD ▸ h.written, hD ▸ h.frame, hsa, hsl, hda⟩

/-- The byte read is the first of the input that is left. -/
theorem State.Decoding.readByte (h : State.Decoding t w out (x :: e) n z) :
    w.mem.readByte (w.blk.S.toNat + w.blk.i.toNat) = x :=
  (Memory.holds_cons.mp h.input).1

/-- A step that has read a byte, and writes no memory: the input that is left starts behind it. -/
theorem State.Decoding.afterRead (h : State.Decoding t w out (x :: e) n z) {w' : State} {bl v : Byte} {z' : Bool}
    {f : Fsm} (hgo : engineStep w = .next w') (hi : (w.blk.i + 1).toNat = w.blk.i.toNat + 1)
    (hmem : w'.mem = w.mem)
    (hblk : w'.blk = { w.blk with i := w.blk.i + 1, block := bl, zpend := z', v := v, fsm := f }) :
    State.Decoding t w' out e bl.toNat z' := by
  have hinv : w'.inv := engineStep_inv w h.inv w' hgo
  have hinput := (Memory.holds_cons.mp h.input).2
  have hlen := h.i
  rw [List.length_cons] at hlen
  have hcount : w.blk.i.toNat + 1 + e.length = w.blk.L.toNat := by omega
  obtain ⟨b, _, m, _⟩ := w'
  obtain rfl : m = w.mem := hmem
  obtain rfl : b = _ := hblk
  exact ⟨hinv, h.kept, h.admits, hi ▸ hinput, hi ▸ hcount, rfl, rfl, h.cur, h.written, h.frame⟩

/-- A step that has written a byte at the cursor: one more byte of output. -/
theorem State.Decoding.afterWrite (h : State.Decoding t w out e n z) {w' : State} {bl : Byte} {f : Fsm}
    (hgo : engineStep w = .next w') (hr : w.blk.request = some (.write, w.blk.D.toNat + w.blk.cur.toNat))
    (hblk : w'.blk = { w.blk with cur := w.blk.cur + 1, block := bl, fsm := f })
    (hcur : w'.blk.cur.toNat = w.blk.cur.toNat + 1)
    (hst : w.mem.storesOnly w'.mem (w.blk.D.toNat + w.blk.cur.toNat) x) :
    State.Decoding t w' (out ++ [x]) e bl.toNat z := by
  have hinv : w'.inv := engineStep_inv w h.inv w' hgo
  have hsrc := h.inv.blk.write_request_outside_source hr
  have hi := h.i
  rw [h.cur] at hcur hst hsrc
  have hlen : (out ++ [x]).length = out.length + 1 := List.length_append
  have hlast : w'.mem.readByte (w.blk.D.toNat + out.length) = x := (hst _).trans (if_pos rfl)
  have hframe (c : Nat) (hc : c < w.blk.D.toNat ∨ w.blk.D.toNat + (out.length + 1) ≤ c) :
      w'.mem.readByte c = t.mem.readByte c := ((hst c).trans (if_neg (by omega))).trans (h.frame c (by omega))
  obtain ⟨b, _, m, _⟩ := w'
  obtain rfl : b = _ := hblk
  exact ⟨hinv, h.kept, h.admits, h.input.of_storesOnly hst (by omega), hi, rfl, h.zpend, hcur.trans hlen.symm,
    Memory.holds_append.mpr ⟨h.written.of_storesOnly hst (.inr le_rfl), Memory.holds_singleton.mpr hlast⟩,
    hlen ▸ hframe⟩

/-- DEC_CODE stops at a zero code byte (42_decoder.md R118). -/
theorem State.Decoding.afterZeroCode (h : State.Decoding t w out (0 :: e) 0 z) (hf : w.blk.fsm = .decCode) :
    ∃ w', RunsBusy 1 w w' ∧ State.Decoding t w' out e 0 z ∧ w'.blk.fsm = .complete := by
  have hd := h.inv.blk.request_admitted (hf ▸ rfl) h.admits (Block.request_of_decCode hf)
  obtain ⟨w', hgo, hstop, -, hi, -, hmem, -⟩ := decCodeReadsACodeByte w h.inv hf _ _ rfl rfl hd
  have hblk := hstop h.readByte
  have h' := h.afterRead hgo hi hmem hblk
  rw [h.block, h.zpend] at h'
  exact ⟨w', .one (by simp [hf]) hgo, h', by rw [hblk]⟩

/-- DEC_CODE takes another code byte (42_decoder.md R118). -/
theorem State.Decoding.afterCode (h : State.Decoding t w out (c :: e) 0 z) (hf : w.blk.fsm = .decCode) (hc : c ≠ 0) :
    ∃ w', RunsBusy 1 w w' ∧ State.Decoding t w' out e (c.toNat - 1) (c != Config.fullCode) ∧
      w'.blk.fsm = if z then .decZero else decPhase e (c.toNat - 1) := by
  have hd := h.inv.blk.request_admitted (hf ▸ rfl) h.admits (Block.request_of_decCode hf)
  obtain ⟨w', hgo, -, hcode, hi, -, hmem, -⟩ := decCodeReadsACodeByte w h.inv hf _ _ rfl rfl hd
  rw [h.readByte] at hcode
  have hblk := hcode hc
  have h' := h.afterRead hgo hi hmem hblk
  rw [toNat_byte_sub_one hc, ← bne_fullCode] at h'
  refine ⟨w', .one (by simp [hf]) hgo, h', ?_⟩
  rw [← h'.nextPhase, hblk, hi, h.zpend]
  simp only [byte_sub_one_eq_zero_iff]

/-- DEC_ZERO writes the zero owed (42_decoder.md R119). -/
theorem State.Decoding.afterZero (h : State.Decoding t w out e n z) (hf : w.blk.fsm = .decZero) :
    ∃ w', RunsBusy 1 w w' ∧ State.Decoding t w' (out ++ [0]) e n z ∧ w'.blk.fsm = decPhase e n := by
  have hr : w.blk.request = some (.write, w.blk.D.toNat + w.blk.cur.toNat) := Block.request_of_decZero hf
  have hd := h.inv.blk.request_admitted (hf ▸ rfl) h.admits hr
  obtain ⟨w', hgo, hblk, hcur, hst, -⟩ := decZeroWritesTheImpliedZero w h.inv hf _ rfl hd
  have h' := h.afterWrite hgo hr hblk hcur hst
  rw [h.block] at h'
  exact ⟨w', .one (by simp [hf]) hgo, h', by rw [hblk]; exact h.nextPhase⟩

/-- DEC_CODE, and DEC_ZERO if a zero is owed (42_decoder.md R118, R119). -/
theorem State.Decoding.afterCodeZero (h : State.Decoding t w out (c :: e) 0 z) (hf : w.blk.fsm = .decCode)
    (hc : c ≠ 0) :
    ∃ w', RunsBusy (1 + (impliedZero z).length) w w' ∧
      State.Decoding t w' (out ++ impliedZero z) e (c.toNat - 1) (c != Config.fullCode) ∧
      w'.blk.fsm = decPhase e (c.toNat - 1) := by
  obtain ⟨w₁, hrun₁, h₁, hf₁⟩ := h.afterCode hf hc
  cases z with
  | false => exact ⟨w₁, hrun₁, (List.append_nil out).symm ▸ h₁, hf₁⟩
  | true =>
    obtain ⟨w₂, hrun₂, h₂, hf₂⟩ := h₁.afterZero hf₁
    exact ⟨w₂, hrun₁.trans hrun₂, h₂, hf₂⟩

/-- DEC_READ and DEC_WRITE copy a literal (42_decoder.md R120, R121). -/
theorem State.Decoding.afterLiteral (h : State.Decoding t w out (x :: e) (n + 1) z) (hf : w.blk.fsm = .decRead) :
    ∃ w', RunsBusy 2 w w' ∧ State.Decoding t w' (out ++ [x]) e n z ∧ w'.blk.fsm = decPhase e n := by
  have hd := h.inv.blk.request_admitted (hf ▸ rfl) h.admits (Block.request_of_decRead hf)
  obtain ⟨w₁, hgo₁, hblk₁, -, -, hi, hmem, -⟩ := decReadTakesTheNextLiteral w h.inv hf _ rfl hd
  have h₁ := h.afterRead hgo₁ hi hmem hblk₁
  rw [h.block, h.zpend] at h₁
  have hf₁ : w₁.blk.fsm = .decWrite := by rw [hblk₁]
  have hr₁ : w₁.blk.request = some (.write, w₁.blk.D.toNat + w₁.blk.cur.toNat) := Block.request_of_decWrite hf₁
  have hd₁ := h₁.inv.blk.request_admitted (hf₁ ▸ rfl) h₁.admits hr₁
  obtain ⟨w₂, hgo₂, hblk₂, hcur, -, hst, -⟩ := decWriteCopiesTheLiteral w₁ h₁.inv hf₁ _ rfl hd₁
  have hv : w₁.blk.v = x := by rw [hblk₁]; exact h.readByte
  have hn : (w₁.blk.block - 1).toNat = n := by have := h₁.block; bv_omega
  have h₂ := h₁.afterWrite hgo₂ hr₁ hblk₂ hcur (hv ▸ hst)
  rw [hn] at h₂
  refine ⟨w₂, (RunsBusy.one (by simp [hf]) hgo₁).trans (.one (by simp [hf₁]) hgo₂), h₂, ?_⟩
  rw [← h₂.nextPhase, hblk₂]
  simp only [byte_sub_one_eq_zero_iff]

/-- The rest of a DECODE: a step per byte read and per byte written, and COMPLETE (42_decoder.md R129, R130). -/
theorem State.Decoding.run (h : State.Decoding t w out e n z) (hf : w.blk.fsm = decPhase e n) :
    ∃ u, RunsBusy (decReads e n + (decLoop e n z).length + 1) w u ∧ State.Decoded t u (out ++ decLoop e n z) := by
  induction e, n, z using decLoop_induction generalizing w out with
  | nil n z =>
    obtain ⟨u, hrun, hu⟩ := h.finish hf
    rw [decReads_nil, decLoop_nil, List.append_nil]
    exact ⟨u, hrun, hu⟩
  | zero e z =>
    obtain ⟨w₁, hrun₁, h₁, hf₁⟩ := h.afterZeroCode hf
    obtain ⟨u, hrun, hu⟩ := h₁.finish hf₁
    rw [decReads_zero, decLoop_zero, List.append_nil]
    exact ⟨u, hrun₁.trans hrun, hu⟩
  | code c e z hc ih =>
    obtain ⟨w₁, hrun₁, h₁, hf₁⟩ := h.afterCodeZero hf hc
    obtain ⟨u, hrun, hu⟩ := ih h₁ hf₁
    rw [List.append_assoc, ← decLoop_code e z hc] at hu
    refine ⟨u, ?_, hu⟩
    convert hrun₁.trans hrun using 1
    rw [decReads_code e hc, decLoop_code e z hc, List.length_append]
    omega
  | literal x e n z ih =>
    obtain ⟨w₁, hrun₁, h₁, hf₁⟩ := h.afterLiteral hf
    obtain ⟨u, hrun, hu⟩ := ih h₁ hf₁
    rw [List.append_assoc, List.singleton_append, ← decLoop_literal] at hu
    refine ⟨u, ?_, hu⟩
    convert hrun₁.trans hrun using 1
    rw [decReads_literal, decLoop_literal, List.length_cons]
    omega

end Decoding

/-- Settles O52: the accept starts the operation before the first code byte, and it runs to its end byte by byte. -/
theorem decodeWritesDecodeFnOfTheSource : Obligations.DecodeWritesDecodeFnOfTheSource := by
  rintro s e h hf hc hread hwrite rfl
  obtain ⟨t, hexec, -, hblk, -, hmem, -⟩ := acceptedDecodeLatchesAndStarts s hf hc
  have hinv : t.inv := exec_inv .decode s h t hexec
  have hstart : State.Decoding t t [] (s.mem.readBytes s.blk.srcAddr.toNat s.blk.srcLen.toNat) 0 false := by
    refine ⟨hinv, ⟨rfl, rfl, rfl, rfl⟩, ?_, ?_, ?_, ?_, ?_, ?_, Memory.holds_nil, fun _ _ => rfl⟩
    · rw [hblk]; exact ⟨hread, hwrite⟩
    · rw [hblk, hmem]; simp [Memory.Holds]
    · rw [hblk]; simp
    · rw [hblk]; rfl
    · rw [hblk]
    · rw [hblk]; rfl
  have hphase : t.blk.fsm = decPhase (s.mem.readBytes s.blk.srcAddr.toNat s.blk.srcLen.toNat) 0 := by
    rw [← hstart.nextPhase, hblk]
    exact (ite_zero_lt_word _ _ _).symm
  obtain ⟨u, ⟨hrun, hbusy⟩, hu⟩ := hstart.run hphase
  rw [List.nil_append] at hu
  have hD : t.blk.D = s.blk.dstAddr := by rw [hblk]
  refine ⟨t, u, hexec, hrun, hu.idle, hu.status, hu.resultLen, hD ▸ hu.output, fun c hc => ?_, ?_, ?_, ?_, hbusy⟩
  · rw [hu.frame c (hD ▸ hc), hmem]
  · rw [hu.srcAddr, hblk]
  · rw [hu.srcLen, hblk]
  · rw [hu.dstAddr, hblk]

end Sys2Proof.Machine

/-! PROOFS of 60_exceptions.md. The rejection of an illegal word (R137), the model faults that no step clears (R147),
and the turns of the other blocks (R151). -/

namespace Sys2Proof.Machine

/-! An illegal word (60_exceptions.md R137). -/

/-- The check of a word that decodes as ILLEGAL (30_encoding.md R67) looks at no parameter register. -/
theorem check_of_illegal_word {w : Word} (h1 : w ≠ 0x00000001#32) (h2 : w ≠ 0x00000002#32) (sa sl da : Word) :
    check (decodeCmd w) sa sl da = .illegalCmd := by
  rw [(decodeCmd_eq_illegal_iff w).mpr ⟨h1, h2⟩, check_illegal]

/-- Settles O12: the check answers ILLEGAL_CMD before it looks at a register, so the idle block rejects. -/
theorem illegalWordIsRejectedWithIllegalCmd : Obligations.IllegalWordIsRejectedWithIllegalCmd := by
  intro s w hf h1 h2
  have hreject : writeCommand w s = reject .illegalCmd s :=
    writeCommand_of_reject (Block.busy_eq_false_iff.mpr hf) (check_of_illegal_word h1 h2 _ _ _) (by decide)
  exact hreject

/-! No step clears a model fault (60_exceptions.md R147). The register port is in the proofs of 20_memory.md; here are
the Engine, the reset event, the Host's memory accesses and the turns. -/

theorem State.KeepsFaults.refl (s : State) : s.KeepsFaults s := State.keepsFaults_of_eq rfl

theorem State.KeepsFaults.trans {s t u : State} (h : s.KeepsFaults t) (h' : t.KeepsFaults u) : s.KeepsFaults u :=
  ⟨h'.1 ∘ h.1, h'.2 ∘ h.2⟩

theorem State.KeepsFaults.ensures {s t : State} {r : Result} (h : s.KeepsFaults t) (hr : Ensures t.KeepsFaults r) :
    Ensures s.KeepsFaults r := hr.imp fun _ => h.trans

theorem withBlk_keepsFaults (s : State) (b : Block) : Ensures s.KeepsFaults (.next (s.withBlk b)) :=
  ensures_next.mpr (State.keepsFaults_of_eq rfl)

/-- An Engine read can only record a race (20_memory.md R63) before the rest of the step. -/
theorem memRead_keepsFaults {a : Nat} {s : State} {k : Byte → State → Result}
    (hk : ∀ x s', Ensures s'.KeepsFaults (k x s')) : Ensures s.KeepsFaults (memRead a s k) :=
  ensures_memRead (.refl s) fun x => (s.keepsFaults_recordIf _ _).ensures (hk x _)

/-- The same for an Engine write. -/
theorem memWrite_keepsFaults {a : Nat} {x : Byte} {s : State} {k : State → Result}
    (hk : ∀ s', Ensures s'.KeepsFaults (k s')) : Ensures s.KeepsFaults (memWrite a x s k) :=
  ensures_memWrite (.refl s) <|
    ((s.withMem (s.mem.writeByte a x)).keepsFaults_recordIf _ _).ensures (hk _)

/-- After its memory access, every Engine step writes the block in focus alone. -/
theorem engineStep_keepsFaults (s : State) : Ensures s.KeepsFaults (engineStep s) := by
  cases h : s.blk.fsm with
  | idle => rw [engineStep_idle h]; exact ensures_next.mpr (.refl s)
  | encRead =>
    rw [engineStep_encRead h]
    exact memRead_keepsFaults fun _ s' => ensures_fitWord fun _ => withBlk_keepsFaults s' _
  | encLit =>
    rw [engineStep_encLit h]
    exact memWrite_keepsFaults fun s' => ensures_fitWord fun _ => ensures_fitByte fun _ => withBlk_keepsFaults s' _
  | encFinZero =>
    rw [engineStep_encFinZero h]
    exact memWrite_keepsFaults fun s' => ensures_fitWord fun _ => withBlk_keepsFaults s' _
  | encFinFull =>
    rw [engineStep_encFinFull h]
    exact memWrite_keepsFaults fun s' =>
      ensures_ite (ensures_fitWord fun _ => withBlk_keepsFaults s' _) (withBlk_keepsFaults s' _)
  | encFinal =>
    rw [engineStep_encFinal h]
    exact memWrite_keepsFaults fun s' => withBlk_keepsFaults s' _
  | encDelim =>
    rw [engineStep_encDelim h]
    exact memWrite_keepsFaults fun s' => ensures_fitWord fun _ => withBlk_keepsFaults s' _
  | decCode =>
    rw [engineStep_decCode h]
    exact memRead_keepsFaults fun _ s' => ensures_fitWord fun _ => withBlk_keepsFaults s' _
  | decZero =>
    rw [engineStep_decZero h]
    exact memWrite_keepsFaults fun s' => ensures_fitWord fun _ => withBlk_keepsFaults s' _
  | decRead =>
    rw [engineStep_decRead h]
    exact memRead_keepsFaults fun _ s' => ensures_fitWord fun _ => withBlk_keepsFaults s' _
  | decWrite =>
    rw [engineStep_decWrite h]
    exact memWrite_keepsFaults fun s' => ensures_fitWord fun _ =>
      ensures_ite (ensures_fault _) (withBlk_keepsFaults s' _)
  | complete => rw [engineStep_complete h]; exact withBlk_keepsFaults s _

/-- The reset event does not clear the flags (70_reset_and_hazards.md R157). -/
theorem resetStep_keepsFaults (s : State) : Ensures s.KeepsFaults (resetStep s) :=
  ensures_next.mpr (State.keepsFaults_of_eq rfl)

theorem memAccess_keepsFaults (x : Bus) (q : List HostAction) (s : State) :
    Ensures s.KeepsFaults (memAccess x q s) := by
  intro t ht
  obtain rfl | hf := memAccess_faults x t ht
  · exact .refl _
  · exact (s.keepsFaults_recordIf _ _).trans (State.keepsFaults_of_eq hf)

/-- Taking an action off the Host's program, or putting a `POLL` back, is no matter of the flags. -/
theorem hostTurn_keepsFaults (s : State) : Ensures s.KeepsFaults (hostTurn s) := by
  have hreg (x : Bus) (q : List HostAction) : Ensures s.KeepsFaults (regAccess x (s.withQueue q)) :=
    ((s.withQueue q).keepsFaults_recordIf _ _).ensures (regAccess_keepsFaults x (s.withQueue q))
  unfold hostTurn
  split
  next => exact ensures_next.mpr (.refl s)
  next x q _ => exact hreg x q
  next x q _ => exact ensures_ite (hreg x q) (memAccess_keepsFaults x q s)
  next k q _ =>
    have hread : Ensures s.KeepsFaults (atBlock k (exec .rdStatus) (.fault .noWindow) (s.withQueue q)) :=
      atBlock_keepsFaults (s := s.withQueue q) k (exec_keepsFaults .rdStatus) (ensures_fault _)
    refine ensures_andThen hread fun t ht => ensures_next.mpr ?_
    split
    · exact ht
    · exact ht

theorem runTurn_keepsFaults (t : Turn) (s : State) : Ensures s.KeepsFaults (runTurn t s) := by
  have habsent : Ensures s.KeepsFaults (.next s) := ensures_next.mpr (.refl s)
  cases t with
  | host => exact hostTurn_keepsFaults s
  | engine k => exact atBlock_keepsFaults k engineStep_keepsFaults habsent
  | reset k => exact atBlock_keepsFaults k resetStep_keepsFaults habsent

/-- Settles O40: every turn leaves the flags as they are or sets one, and the schedule holds no flag. -/
theorem recordedModelFaultsAreNeverCleared : Obligations.RecordedModelFaultsAreNeverCleared := by
  intro s t hstep
  cases hs : s.sched with
  | nil => exact runTurn_keepsFaults (defaultTurn s) s t (step_of_none_listed hs ▸ hstep)
  | cons u us => exact runTurn_keepsFaults u (s.withSched us) t (step_of_listed hs ▸ hstep)

/-! The turns of the other blocks (60_exceptions.md R151). -/

/-- The registers of the block in focus and of every peer but the `j`-th are those of `s`. -/
def State.KeepsAllBut (j : Nat) (s t : State) : Prop := t.blk = s.blk ∧ ∀ k, k ≠ j → t.peers[k]? = s.peers[k]?

/-- An action of the peer at `j`, once the peer is put back, changes no other block. -/
theorem State.ActsInFocus.keepsAllBut_unswap {s t : State} {j : Nat} {b : Block} (hb : s.peers[j]? = some b)
    (h : (s.swap j b).ActsInFocus t) : s.KeepsAllBut j (t.unswap j) := by
  rw [State.unswap_of_peers hb h.peers]
  exact ⟨rfl, fun k hk => List.getElem?_set_ne hk.symm⟩

theorem atBlock_keepsAllBut {f : State → Result} (j : Nat) (s : State) (hf : ∀ s, Ensures s.ActsInFocus (f s)) :
    Ensures (s.KeepsAllBut j) (atBlock (j + 1) f (.next s) s) := by
  cases hb : s.peers[j]? with
  | none => rw [atBlock_of_absent f _ hb]; exact ensures_next.mpr ⟨rfl, fun _ _ => rfl⟩
  | some b =>
    rw [atBlock_of_present f _ hb]
    exact ensures_andThen (hf _) fun _ ht => ensures_next.mpr (ht.keepsAllBut_unswap hb)

/-- Settles O42: the listed turn is the action at that peer, which acts on the block brought into focus alone. -/
theorem instancesKeepTheirOwnRegisters : Obligations.InstancesKeepTheirOwnRegisters := by
  intro s j ts
  have hengine (hs : s.sched = .engine (j + 1) :: ts) :
      step s = atBlock (j + 1) engineStep (.next (s.withSched ts)) (s.withSched ts) := step_of_listed hs
  have hreset (hs : s.sched = .reset (j + 1) :: ts) :
      step s = atBlock (j + 1) resetStep (.next (s.withSched ts)) (s.withSched ts) := step_of_listed hs
  refine ⟨fun b hb => ⟨fun hs => ?_, fun hs => ?_⟩, ?_⟩
  · exact (hengine hs).trans (atBlock_of_present (s := s.withSched ts) engineStep _ hb)
  · exact (hreset hs).trans (atBlock_of_present (s := s.withSched ts) resetStep _ hb)
  · rintro (hs | hs)
    · rw [hengine hs]
      exact ⟨fun hb => atBlock_of_absent (s := s.withSched ts) engineStep _ hb,
        atBlock_keepsAllBut j (s.withSched ts) engineStep_actsInFocus⟩
    · rw [hreset hs]
      exact ⟨fun hb => atBlock_of_absent (s := s.withSched ts) resetStep _ hb,
        atBlock_keepsAllBut j (s.withSched ts) resetStep_actsInFocus⟩

end Sys2Proof.Machine

/-! PROOFS of 70_reset_and_hazards.md. The reset event of a block (R155, R157), the bound on the Engine's steps until
it is idle (R167, R169), and the step counts of an ENCODE and a DECODE (R169). -/

namespace Sys2Proof.Machine

/-! The reset event of any block (70_reset_and_hazards.md R155, R157). -/

/-- The blocks after a listed reset of block `k`, in focus or a peer, and everything around them. -/
theorem step_of_listed_reset {s : State} {k : Nat} {b : Block} {ts : List Turn} (hs : s.sched = .reset k :: ts)
    (hb : (s.blk :: s.peers)[k]? = some b) :
    ∃ t, step s = .next t ∧ t.blk :: t.peers = (s.blk :: s.peers).set k (b.resetEvent s.draws) ∧
      t.draws = s.draws + 1 ∧ t.mem = s.mem ∧ t.faults = s.faults ∧ t.hostQueue = s.hostQueue ∧
      t.reads = s.reads ∧ t.sched = ts ∧ t.platform = s.platform := by
  have hstep : step s = atBlock k resetStep (.next (s.withSched ts)) (s.withSched ts) := step_of_listed hs
  cases k with
  | zero =>
    obtain rfl : s.blk = b := Option.some.inj hb
    exact ⟨_, hstep, rfl, rfl, rfl, rfl, rfl, rfl, rfl, rfl⟩
  | succ j =>
    have hpeer : (s.withSched ts).peers[j]? = some b := hb
    exact ⟨_, hstep.trans ((atBlock_of_present resetStep _ hpeer).trans
      (congrArg Host.Outcome.next (State.unswap_of_peers hpeer rfl))), rfl, rfl, rfl, rfl, rfl, rfl, rfl, rfl⟩

/-- Settles O37: the block is replaced by its reset event where it stands. -/
theorem resetEventClearsRegistersAndKeepsMemoryAndFaults :
    Obligations.ResetEventClearsRegistersAndKeepsMemoryAndFaults := by
  intro s k b ts hs hb
  obtain ⟨t, hstep, hblocks, hdraws, haround⟩ := step_of_listed_reset hs hb
  exact ⟨t, b.resetEvent s.draws, hstep, hblocks, Block.resetEvent_statusWord _ _, rfl, rfl, rfl, rfl, rfl, rfl, rfl,
    rfl, rfl, rfl, rfl, rfl, rfl, rfl, rfl, rfl, rfl, rfl, hdraws, haround⟩

/-! A bound on the steps an operation has left (70_reset_and_hazards.md R169). -/

/-- The steps of an ENCODE with `r` bytes to read and `k` literals in the open block, in ENC_READ or ENC_FINAL: two per
byte, one per block that can still become full, and the three last. -/
def encStepsLeft (r k : Nat) : Nat := 2 * r + (k + r) / 254 + 3

/-- The steps of a DECODE with `r` bytes to read, in DEC_CODE or DEC_READ: two per byte, one for the zero owed, and
COMPLETE. -/
def decStepsLeft (r : Nat) (z : Bool) : Nat := 2 * r + z.toNat + 1

/-- The source bytes still to be read. -/
def Block.inputLeft (b : Block) : Nat := b.L.toNat - b.i.toNat

/-- A number of steps within which the Engine becomes idle, each of its requests admitted. -/
def Block.stepsLeft (b : Block) : Nat :=
  match b.fsm with
  | .idle => 0
  | .encRead => encStepsLeft b.inputLeft (b.code.toNat - 1)
  | .encLit => encStepsLeft b.inputLeft b.code.toNat + 1
  | .encFinZero => encStepsLeft b.inputLeft 0 + 1
  | .encFinFull => encStepsLeft b.inputLeft 0 + 1
  | .encFinal => 3
  | .encDelim => 2
  | .decCode => decStepsLeft b.inputLeft b.zpend
  | .decZero => decStepsLeft b.inputLeft b.zpend + 1
  | .decRead => decStepsLeft b.inputLeft b.zpend
  | .decWrite => decStepsLeft b.inputLeft b.zpend + 1
  | .complete => 1

/-- The Engine is busy, with at most `n` steps left. -/
def Block.BusyWithin (n : Nat) (b : Block) : Prop := b.fsm ≠ .idle ∧ b.stepsLeft ≤ n

section StepsLeft
variable {b : Block}

/-- After `enc_next` (41_encoder.md R97). -/
theorem Block.busyWithin_of_encNext (hf : b.fsm = if b.i.toNat < b.L.toNat then .encRead else .encFinal) :
    b.BusyWithin (encStepsLeft b.inputLeft (b.code.toNat - 1)) := by
  by_cases hlt : b.i.toNat < b.L.toNat
  · rw [if_pos hlt] at hf
    simp [Block.BusyWithin, Block.stepsLeft, hf]
  · rw [if_neg hlt] at hf
    simp [Block.BusyWithin, Block.stepsLeft, hf, encStepsLeft]

/-- After `dec_next` (42_decoder.md R117). -/
theorem Block.busyWithin_of_decNext {p : Prop} [Decidable p]
    (hf : b.fsm = if b.i.toNat < b.L.toNat then (if p then .decCode else .decRead) else .complete) :
    b.BusyWithin (decStepsLeft b.inputLeft b.zpend) := by
  by_cases hlt : b.i.toNat < b.L.toNat
  · rw [if_pos hlt] at hf
    by_cases hp : p
    · rw [if_pos hp] at hf
      simp [Block.BusyWithin, Block.stepsLeft, hf]
    · rw [if_neg hp] at hf
      simp [Block.BusyWithin, Block.stepsLeft, hf]
  · rw [if_neg hlt] at hf
    simp [Block.BusyWithin, Block.stepsLeft, hf, decStepsLeft]

/-- Inside the ranges of 10_state.md R29 an operation has no more steps left than R169 says: in every state `code` counts
bytes already read, and a zero is owed only after the first code byte. -/
theorem Block.inv.stepsLeft_le (h : b.inv) : b.stepsLeft ≤ 2 * b.L.toNat + (b.L.toNat + 253) / 254 + 3 := by
  obtain ⟨-, -, ⟨hread, hbyte, hfull, -⟩, hcode, hzero, hdread, hwrite⟩ := h
  have hz : b.zpend.toNat ≤ 1 := Bool.toNat_le b.zpend
  cases hf : b.fsm <;> simp only [Block.stepsLeft, Block.inputLeft, encStepsLeft, decStepsLeft, hf]
  case encRead => obtain ⟨hlt, ⟨-, hk⟩, -⟩ := hread hf; omega
  case encLit => obtain ⟨h1, hiL, ⟨-, hk⟩, -⟩ := hbyte (.inl hf); omega
  case encFinZero => obtain ⟨h1, hiL, -⟩ := hbyte (.inr hf); omega
  case encFinFull => obtain ⟨hiL, ⟨-, hk⟩, -⟩ := hfull hf; omega
  case decZero => obtain ⟨hiL, -, hcur⟩ := hzero hf; omega
  case decWrite => obtain ⟨hiL, -, -, hcur⟩ := hwrite hf; omega
  case idle | encFinal | encDelim | decCode | decRead | complete => omega

end StepsLeft

/-- The next Engine step leaves the Engine busy and brings it nearer to its end. -/
def State.Advances (s : State) : Prop :=
  ∃ t, engineStep s = .next t ∧ s.sameAround t ∧ t.blk.fsm ≠ .idle ∧ t.blk.stepsLeft < s.blk.stepsLeft

section Advancing
variable {s : State}

theorem State.advances_to {t : State} {b : Block} {n : Nat} (hgo : engineStep s = .next t) (hblk : t.blk = b)
    (haround : s.sameAround t) (hb : b.BusyWithin n) (hn : n < s.blk.stepsLeft) : s.Advances := by
  obtain ⟨hidle, hle⟩ := hb
  exact ⟨t, hgo, haround, hblk ▸ hidle, hblk ▸ hle.trans_lt hn⟩

variable (h : s.inv) (hd : ∀ kind a, memAdmit s.blk.port.denied kind a = true)
include h hd

theorem State.advances_of_encRead (hf : s.blk.fsm = .encRead) : s.Advances := by
  obtain ⟨t, hgo, hblk, hlt, hi, -, haround, -⟩ := encReadTakesTheNextSourceByte s h hf _ rfl (hd _ _)
  obtain ⟨-, -, ⟨hread, -⟩, -⟩ := h.blk
  obtain ⟨-, -, -, h1, -⟩ := hread hf
  by_cases hx : s.mem.readByte (s.blk.S.toNat + s.blk.i.toNat) ≠ 0
  · rw [if_pos hx] at hblk
    refine State.advances_to hgo hblk haround ⟨nofun, le_rfl⟩ ?_
    simp only [Block.stepsLeft, Block.inputLeft, encStepsLeft, hf, hi]
    omega
  · rw [if_neg hx] at hblk
    refine State.advances_to hgo hblk haround ⟨nofun, le_rfl⟩ ?_
    simp only [Block.stepsLeft, Block.inputLeft, encStepsLeft, hf, hi]
    omega

theorem State.advances_of_encLit (hf : s.blk.fsm = .encLit) : s.Advances := by
  obtain ⟨t, hgo, hblk, -, h254, hcode, -, -, haround, -⟩ := encLitCopiesTheLiteral s h hf _ rfl (hd _ _)
  rw [hblk] at hcode
  by_cases hfull : s.blk.code + 1 = 255
  · rw [if_pos hfull] at hblk
    have hcode : s.blk.code.toNat = 254 := by bv_omega
    refine State.advances_to hgo hblk haround ⟨nofun, le_rfl⟩ ?_
    simp only [Block.stepsLeft, Block.inputLeft, encStepsLeft, hf, hcode]
    omega
  · rw [if_neg hfull] at hblk
    refine State.advances_to hgo hblk haround (Block.busyWithin_of_encNext rfl) ?_
    simp only [Block.stepsLeft, Block.inputLeft, hf, hcode]
    exact Nat.lt_succ_self _

theorem State.advances_of_encFinZero (hf : s.blk.fsm = .encFinZero) : s.Advances := by
  obtain ⟨t, hgo, hblk, -, -, -, -, haround, -⟩ := encFinZeroClosesTheBlock s h hf _ rfl (hd _ _)
  refine State.advances_to hgo hblk haround (Block.busyWithin_of_encNext rfl) ?_
  simp only [Block.stepsLeft, hf]
  exact Nat.lt_succ_self _

theorem State.advances_of_encFinFull (hf : s.blk.fsm = .encFinFull) : s.Advances := by
  obtain ⟨t, hgo, -, hmore, hlast, hle, -, haround, -⟩ :=
    encFinFullReservesOnlyIfInputRemains s h hf _ rfl (hd _ _)
  obtain hlt | he := hle.lt_or_eq
  · refine State.advances_to hgo (hmore hlt).1 haround ⟨nofun, le_rfl⟩ ?_
    simp only [Block.stepsLeft, hf]
    exact Nat.lt_succ_self _
  · refine State.advances_to hgo (hlast he) haround ⟨nofun, le_rfl⟩ ?_
    simp [Block.stepsLeft, encStepsLeft, hf]

theorem State.advances_of_encFinal (hf : s.blk.fsm = .encFinal) : s.Advances := by
  obtain ⟨t, hgo, hblk, -, -, -, -, haround, -⟩ := encFinalWritesTheClosingCode s h hf _ rfl (hd _ _)
  exact State.advances_to hgo hblk haround ⟨nofun, le_rfl⟩ (by simp [Block.stepsLeft, hf])

theorem State.advances_of_encDelim (hf : s.blk.fsm = .encDelim) : s.Advances := by
  obtain ⟨t, hgo, hblk, -, -, haround, -⟩ := encDelimAppendsTheDelimiter s h hf _ rfl (hd _ _)
  exact State.advances_to hgo hblk haround ⟨nofun, le_rfl⟩ (by simp [Block.stepsLeft, hf])

theorem State.advances_of_decCode (hf : s.blk.fsm = .decCode) : s.Advances := by
  obtain ⟨-, -, -, hcode, -⟩ := h.blk
  obtain ⟨hlt, -⟩ := hcode hf
  obtain ⟨t, hgo, hstop, hgoes, hi, -, -, haround, -⟩ := decCodeReadsACodeByte s h hf _ _ rfl rfl (hd _ _)
  generalize s.mem.readByte (s.blk.S.toNat + s.blk.i.toNat) = c at hstop hgoes
  by_cases hc : c = 0
  · refine State.advances_to hgo (hstop hc) haround ⟨nofun, le_rfl⟩ ?_
    simp only [Block.stepsLeft, Block.inputLeft, decStepsLeft, hf]
    omega
  · have hblk := hgoes hc
    have hz : (decide (c ≠ 255)).toNat ≤ 1 := Bool.toNat_le _
    cases howed : s.blk.zpend with
    | true =>
      rw [howed, if_pos rfl] at hblk
      refine State.advances_to hgo hblk haround ⟨nofun, le_rfl⟩ ?_
      simp only [Block.stepsLeft, Block.inputLeft, decStepsLeft, hf, hi, howed, Bool.toNat_true]
      omega
    | false =>
      rw [howed, if_neg nofun, ← hi] at hblk
      refine State.advances_to hgo hblk haround (Block.busyWithin_of_decNext rfl) ?_
      simp only [Block.stepsLeft, Block.inputLeft, decStepsLeft, hf, hi, howed]
      omega

theorem State.advances_of_decZero (hf : s.blk.fsm = .decZero) : s.Advances := by
  obtain ⟨t, hgo, hblk, -, -, haround, -⟩ := decZeroWritesTheImpliedZero s h hf _ rfl (hd _ _)
  refine State.advances_to hgo hblk haround (Block.busyWithin_of_decNext rfl) ?_
  simp only [Block.stepsLeft, hf]
  exact Nat.lt_succ_self _

theorem State.advances_of_decRead (hf : s.blk.fsm = .decRead) : s.Advances := by
  obtain ⟨t, hgo, hblk, hlt, -, hi, -, haround, -⟩ := decReadTakesTheNextLiteral s h hf _ rfl (hd _ _)
  refine State.advances_to hgo hblk haround ⟨nofun, le_rfl⟩ ?_
  simp only [Block.stepsLeft, Block.inputLeft, decStepsLeft, hf, hi]
  omega

theorem State.advances_of_decWrite (hf : s.blk.fsm = .decWrite) : s.Advances := by
  obtain ⟨t, hgo, hblk, -, -, -, haround, -⟩ := decWriteCopiesTheLiteral s h hf _ rfl (hd _ _)
  refine State.advances_to hgo hblk haround (Block.busyWithin_of_decNext rfl) ?_
  simp only [Block.stepsLeft, hf]
  exact Nat.lt_succ_self _

end Advancing

/-- Every state of a busy Engine but COMPLETE. -/
theorem State.advances {s : State} (h : s.inv) (hd : ∀ kind a, memAdmit s.blk.port.denied kind a = true)
    (hb : s.blk.busy = true) (hc : s.blk.fsm ≠ .complete) : s.Advances := by
  cases hf : s.blk.fsm with
  | idle => exact absurd hf (Block.busy_iff.mp hb)
  | encRead => exact State.advances_of_encRead h hd hf
  | encLit => exact State.advances_of_encLit h hd hf
  | encFinZero => exact State.advances_of_encFinZero h hd hf
  | encFinFull => exact State.advances_of_encFinFull h hd hf
  | encFinal => exact State.advances_of_encFinal h hd hf
  | encDelim => exact State.advances_of_encDelim h hd hf
  | decCode => exact State.advances_of_decCode h hd hf
  | decZero => exact State.advances_of_decZero h hd hf
  | decRead => exact State.advances_of_decRead h hd hf
  | decWrite => exact State.advances_of_decWrite h hd hf
  | complete => exact absurd hf hc

/-! The run of the machine until its Engine is idle (70_reset_and_hazards.md R167, R169). -/

theorem core_run_succ {s t : State} (n : Nat) (h : step s = .next t) : core.run (n + 1) s = core.run n t := by
  have hcore : core.step s = .next t := h
  simp only [Host.Core.run, hcore]

theorem Block.enabled_of_admitted {b : Block} (hb : b.busy = true)
    (hd : ∀ kind a, memAdmit b.port.denied kind a = true) : b.enabled = true := by
  cases hr : b.request with
  | none => simp [Block.enabled, hb, hr]
  | some q => simp [Block.enabled, hb, hr, hd]

/-- With no turn listed, the machine's step is that of an enabled Engine in focus (log 7). -/
theorem step_of_enabled {s : State} (hs : s.sched = []) (hen : s.blk.enabled = true) : step s = engineStep s := by
  obtain ⟨-, hfocus, -⟩ := enabledEngineMovesWhenNoTurnIsListed s
  exact hfocus hs hen

/-- A busy Engine becomes idle within the steps it has left. -/
theorem becomes_idle_within_stepsLeft (s : State) (h : s.inv) (hs : s.sched = []) (hb : s.blk.busy = true)
    (hd : ∀ kind a, memAdmit s.blk.port.denied kind a = true) :
    ∃ n t, n ≤ s.blk.stepsLeft ∧ core.run n s = .next t ∧ t.blk.busy = false ∧ t.blk.statusWord = 0x00000002#32 := by
  induction hm : s.blk.stepsLeft using Nat.strong_induction_on generalizing s with
  | _ m ih =>
    subst hm
    have hstep := step_of_enabled hs (Block.enabled_of_admitted hb hd)
    by_cases hc : s.blk.fsm = .complete
    · obtain ⟨t, hgo, -, hstatus, hidle⟩ := completeReportsTheCursor s hc
      refine ⟨1, t, ?_, core_run_succ 0 (hstep.trans hgo), hidle, hstatus⟩
      rw [Block.stepsLeft, hc]
    · obtain ⟨t, hgo, ⟨-, -, -, hsched, -⟩, hbusy, hlt⟩ := State.advances h hd hb hc
      have hport : t.blk.port = s.blk.port := (engineStep_actsInFocus s t hgo).port
      obtain ⟨n, u, hn, hrun, hidle, hstatus⟩ := ih _ hlt t (engineStep_inv s h t hgo) (hsched.trans hs)
        (Block.busy_iff.mpr hbusy) (hport ▸ hd) rfl
      exact ⟨n + 1, u, hn.trans_lt hlt, (core_run_succ n (hstep.trans hgo)).trans hrun, hidle, hstatus⟩

/-- Settles O44: each step leaves fewer steps, and the ranges of 10_state.md R29 bound their number. Peers would play no
part: the block in focus comes first (log 7). -/
theorem busyEngineBecomesIdleWithinTheStepBound : Obligations.BusyEngineBecomesIdleWithinTheStepBound := by
  intro s h hs _ hb hd
  obtain ⟨n, t, hn, hrun, hidle⟩ := becomes_idle_within_stepsLeft s h hs hb hd
  exact ⟨n, t, hn.trans h.blk.stepsLeft_le, hrun, hidle⟩

/-! The step counts of the two transforms (70_reset_and_hazards.md R169). -/

/-- A full block takes 254 literals, also at the end of the input. -/
theorem fullBlocksFrom_all_lt (xs : List Byte) {code : Nat} (h1 : 1 ≤ code) (h254 : code ≤ 254) :
    254 * fullBlocksFrom true code xs < code + xs.length := by
  induction xs generalizing code with
  | nil =>
    rw [fullBlocksFrom_nil]
    omega
  | cons x xs ih =>
    rw [List.length_cons]
    by_cases hx : x = 0
    · have := ih (code := 1) le_rfl (by decide)
      rw [hx, fullBlocksFrom_zero]
      omega
    · by_cases hc : code = 254
      · have := ih (code := 1) le_rfl (by decide)
        rw [hc, fullBlocksFrom_full true xs hx, Bool.true_or, if_pos rfl]
        omega
      · have := ih (code := code + 1) (by omega) (by omega)
        rw [fullBlocksFrom_literal true xs hx hc]
        omega

/-- Settles O58: G(b) is at most ceil_div(L, 254), and a DECODE reads at most L bytes and writes fewer. -/
theorem stepCountsAreLinear : Obligations.StepCountsAreLinear := by
  refine ⟨fun b => ?_, fun e => ?_⟩
  · have hG : 254 * fullBlocksAll b < 1 + b.length := fullBlocksFrom_all_lt b le_rfl (by decide)
    rw [encodeSteps]
    omega
  · have hreads := decReads_le_length e 0
    have hout := length_decodeFn_le e
    rw [decodeSteps]
    omega

end Sys2Proof.Machine
